-- ==== Sys2Proof/Word.lean ====
section
/-! DEFINITION. The word types of the bridge (00_scope.md rules R2, R3, section 4.1; 10_state.md R11, R12).

`M` is 32 in every well-formed configuration (R3 (a)), so data words have a fixed width. The address width `N` is an open
parameter (R2), so an address is a natural number, a plain `Nat`, that the port and the translation keep below `2^N`
(notes/assumptions/9.md). -/

namespace Sys2Proof

/-- A data word of `M` = 32 bits (R2, R3 (a)). -/
abbrev Word := BitVec 32

/-- One byte of a buffer, or one byte lane of a data word. -/
abbrev Byte := BitVec 8

/-- A byte strobe: bit `i` enables byte lane `i` (R11). -/
abbrev Strobe := BitVec 4

/-- The protection bits of an address channel, ignored by the bridge (R68). -/
abbrev Prot := BitVec 3

/-- A response status (R12, R38). -/
abbrev Resp := BitVec 2

/-- The low `LB` = 2 bits of an address, which select nothing (R50, R62). -/
abbrev LowBits := BitVec 2

end Sys2Proof
end

