-- ==== Sys2Proof/Config.lean ====
section
/-! DEFINITION. The configuration record (00_scope.md rules R2, R3), the two reference configurations, and the free
values the spec leaves open (43_device_read.md R133; 10_state.md R34 to R36). -/

namespace Sys2Proof

/-- The open parameters of R2. Everything else in R2's table is fixed or derived (below). -/
structure Cfg where
  /-- `N` (`ADDR_WIDTH`), the width of a bus address in bits. -/
  addrWidth : Nat
  /-- `M` (`DATA_WIDTH`), the width of the bus data in bits; only 32 is well formed (R3 (a)). -/
  dataWidth : Nat
  /-- `BASE`, the peripheral base address on the bus. -/
  base : Nat
  /-- `SIZE`, the total address-space size of the peripheral. -/
  size : Nat
  /-- `RFILE_OFFSET`, the device-local offset of the InputBuffer region. -/
  rfileOffset : Nat
  /-- `RFILE_SIZE`, the size of InputBuffer in bytes. -/
  rfileSize : Nat
  /-- `WFILE_OFFSET`, the device-local offset of the OutputBuffer region. -/
  wfileOffset : Nat
  /-- `WFILE_SIZE`, the size of OutputBuffer in bytes. -/
  wfileSize : Nat
deriving DecidableEq, Repr

/-- `CFG_REF` of the table after R3: the translation policy is XOR. -/
def Cfg.ref : Cfg where
  addrWidth := 32
  dataWidth := 32
  base := 0x40000000
  size := 0x1000
  rfileOffset := 0x100
  rfileSize := 0x40
  wfileOffset := 0x200
  wfileSize := 0x20

/-- `CFG_SUB` of the table after R3: the translation policy is subtraction. -/
def Cfg.sub : Cfg where
  addrWidth := 32
  dataWidth := 32
  base := 0x800
  size := 0x1000
  rfileOffset := 0x100
  rfileSize := 0x10
  wfileOffset := 0x200
  wfileSize := 0x20

namespace Config

/-- `M` of every well-formed configuration (R3 (a)). -/
abbrev wordBits : Nat := 32

/-- `BPW`, bytes per data word, `M/8`; also the number of strobe bits (R2). -/
abbrev bpw : Nat := 4

/-- `LB`, `log2(BPW)` (R2). -/
abbrev lb : Nat := 2

/-- `NREGS`, the number of registers (R2). -/
abbrev nregs : Nat := 16

/-- `REG_SPAN`, the size of the register region in bytes, `NREGS * BPW` (R2). -/
abbrev regSpan : Nat := 64

/-- `CTRL_BIT`, the index of the top control bit of register 0 (R2, D11). -/
abbrev ctrlBit : Nat := 7

/-- `RESP_OKAY` (R38). The spec marks the value `0b00` as general knowledge, not the source's. -/
abbrev respOkay : Resp := 0b00#2

/-! ### Free values

None of these has a body, so nothing in Lean can evaluate one or prove a value of it. Each is applied to the state's
counter `draws`, which moves on with every use (notes/assumptions/7.md, notes/assumptions/8.md). -/

/-- `any_M()` of R133: the data of the `n`-th read of an unmapped or InputBuffer address. -/
opaque anyM : Nat → Word

/-- What the reset tick with counter `n` leaves in register `i` (R35). -/
opaque resetReg : Nat → Nat → Word

/-- What the reset tick with counter `n` leaves in InputBuffer byte `k` (R36). -/
opaque resetIbuf : Nat → Nat → Byte

/-- What the reset tick with counter `n` leaves in OutputBuffer byte `k` (R36). -/
opaque resetObuf : Nat → Nat → Byte

/-- What the reset tick with counter `n` leaves in `dev_waddr`, before reduction to `N` bits (R34). -/
opaque resetWaddr : Nat → Nat

/-- What the reset tick with counter `n` leaves in `dev_raddr`, before reduction to `N` bits (R34). -/
opaque resetRaddr : Nat → Nat

/-- What the reset tick with counter `n` leaves in `dev_wdata` (R34). -/
opaque resetWdata : Nat → Word

/-- What the reset tick with counter `n` leaves in `dev_wstrb` (R34). -/
opaque resetWstrb : Nat → Strobe

/-- What the reset tick with counter `n` leaves in `dev_rdata` (R34). -/
opaque resetDevRdata : Nat → Word

/-- What the reset tick with counter `n` leaves in `rdata` (R34). -/
opaque resetRdata : Nat → Word

end Config

end Sys2Proof
end

