-- ==== Sys2Proof/Machine/State.lean ====
section
/-! DEFINITION. The state of the bridge (10_state.md), grouped by the process that owns it (R28), the reasons a step can
stop, and the state after reset. Names follow the spec's: `aw.auxValid` is `aw_aux_valid`, `dw.ready` is `dev_wready`. -/

namespace Sys2Proof.Machine

open Sys2Proof

/-! ### Process states -/

/-- The states of an address or data channel (R14, R15, R17). -/
inductive ChanState where
  | readyHigh
  | awaitValid
  | awaitDeviceReady
deriving DecidableEq, Repr

/-- The states of the write-response channel (R16): `B_COLLECT`, `B_RESPOND`. -/
inductive RespState where
  | collect
  | respond
deriving DecidableEq, Repr

/-- The states of the read-data channel (R18): `R_IDLE`, `R_VALIDATE`, `R_DRAIN`. -/
inductive ReadState where
  | idle
  | validate
  | drain
deriving DecidableEq, Repr

/-- The states of the device write procedure (R19): `DW_IDLE`, `DW_COMPUTE`, `DW_ACK`. -/
inductive WriteProcState where
  | idle
  | compute
  | ack
deriving DecidableEq, Repr

/-- The states of the device read procedure (R20): `DR_IDLE`, `DR_ACK`. -/
inductive ReadProcState where
  | idle
  | ack
deriving DecidableEq, Repr

/-! ### What each process owns (R28) -/

/-- An address channel, `AW` (R14) or `AR` (R17). -/
structure AddrChannel where
  /-- `aw_state`, `ar_state`. -/
  state : ChanState
  /-- `awready`, `arready`. -/
  ready : Bool
  /-- `aw_aux_valid`, `ar_aux_valid`. -/
  auxValid : Bool
  /-- `dev_waddr`, `dev_raddr`: the captured, translated address. -/
  addr : Nat
deriving DecidableEq, Repr

/-- The write-data channel `W` (R15). -/
structure DataChannel where
  /-- `w_state`. -/
  state : ChanState
  /-- `wready`. -/
  ready : Bool
  /-- `w_aux_valid`. -/
  auxValid : Bool
  /-- `dev_wdata`. -/
  data : Word
  /-- `dev_wstrb`. -/
  strb : Strobe
deriving DecidableEq, Repr

/-- The write-response channel `B` (R16), with its four sticky flags. -/
structure RespChannel where
  /-- `b_state`. -/
  state : RespState
  /-- `bvalid`. -/
  valid : Bool
  /-- `s_awv`: address valid observed. -/
  sAwv : Bool
  /-- `s_awr`: address ready observed. -/
  sAwr : Bool
  /-- `s_wv`: data valid observed. -/
  sWv : Bool
  /-- `s_wr`: data ready observed. -/
  sWr : Bool
deriving DecidableEq, Repr

/-- The read-data channel `R` (R18). -/
structure ReadChannel where
  /-- `r_state`. -/
  state : ReadState
  /-- `rvalid`. -/
  valid : Bool
  /-- `rdata`. -/
  data : Word
deriving DecidableEq, Repr

/-- The control state of the device write procedure `DW` (R19). -/
structure WriteProc where
  /-- `dw_state`. -/
  state : WriteProcState
  /-- `dev_wready`. -/
  ready : Bool
deriving DecidableEq, Repr

/-- The state of the device read procedure `DR` (R20). -/
structure ReadProc where
  /-- `dr_state`. -/
  state : ReadProcState
  /-- `dev_rready`. -/
  ready : Bool
  /-- `dev_rdata`. -/
  rdata : Word
deriving DecidableEq, Repr

/-- The contents of a byte buffer: pairs of byte index and byte, indices strictly rising, no byte equal to what an
unlisted index reads as (notes/assumptions/5.md). `Mem.wf` of Machine/Ops.lean is the check. -/
abbrev Mem := List Host.Cell

/-- The input ports during one tick (R11). -/
structure Input where
  reset : Bool
  awvalid : Bool
  awaddr : Nat
  awprot : Prot
  wvalid : Bool
  wdata : Word
  wstrb : Strobe
  bready : Bool
  arvalid : Bool
  araddr : Nat
  arprot : Prot
  rready : Bool
deriving DecidableEq, Repr

/-- The all-zero input `I0` (R178). -/
def Input.zero : Input where
  reset := false
  awvalid := false
  awaddr := 0
  awprot := 0#3
  wvalid := false
  wdata := 0#32
  wstrb := 0#4
  bready := false
  arvalid := false
  araddr := 0
  arprot := 0#3
  rready := false

/-- `S(t)`: every state element of 10_state.md, with three fields of the model's own: the configuration, the master's
coming inputs and the counter of the free values (notes/assumptions/1.md, 2.md, 8.md). -/
structure State where
  /-- The configuration `cfg` (R2); no step changes it. -/
  cfg : Cfg
  /-- The master's inputs from this tick on; after the last one every input is zero. -/
  inputs : List Input
  /-- How often a free value has been used. -/
  draws : Nat
  /-- The write-address channel (R14). -/
  aw : AddrChannel
  /-- The write-data channel (R15). -/
  w : DataChannel
  /-- The write-response channel (R16). -/
  b : RespChannel
  /-- The read-address channel (R17). -/
  ar : AddrChannel
  /-- The read-data channel (R18). -/
  r : ReadChannel
  /-- The device write procedure (R19). -/
  dw : WriteProc
  /-- The device read procedure (R20). -/
  dr : ReadProc
  /-- RegisterFile (R22 to R24). -/
  regs : Vector Word 16
  /-- InputBuffer (R25). -/
  ibuf : Mem
  /-- OutputBuffer (R26). -/
  obuf : Mem
  /-- InterruptRequest, the output `irq` (R27). -/
  irq : Bool
deriving DecidableEq, Repr

/-- Why a step faults. There is no constructor: the bridge raises no exception and no behaviour of it is a fault
(R140, R149; 93_implementation_defined.md section 1, last sentence). -/
inductive Fault where
deriving DecidableEq, Repr

/-- Why a step has no meaning. -/
inductive Refusal where
  /-- Raised by `exec` for an operation without a meaning yet. Safe: nothing follows from it. No arm of this model
  raises it. -/
  | notModelled (mnemonic : String)
  /-- Raised by `step` when the state's configuration is not well formed: "A model refuses any other configuration"
  (R3). Safe: nothing is claimed about such a configuration. -/
  | configNotWellFormed
deriving DecidableEq, Repr

/-- The machine right after reset: R32 and R33 give every process state, flag and handshake output, and `irq`. The spec
gives no value for the registers, the buffers and the six payload registers (R34 to R36): they are 0 here, the model's
choice (notes/assumptions/4.md, 5.md, 6.md). The configuration is CFG_REF (notes/assumptions/1.md). -/
def State.reset : State where
  cfg := Cfg.ref
  inputs := []
  draws := 0
  aw := { state := .readyHigh, ready := false, auxValid := false, addr := 0 }
  w := { state := .readyHigh, ready := false, auxValid := false, data := 0#32, strb := 0#4 }
  b := { state := .collect, valid := false, sAwv := false, sAwr := false, sWv := false, sWr := false }
  ar := { state := .readyHigh, ready := false, auxValid := false, addr := 0 }
  r := { state := .idle, valid := false, data := 0#32 }
  dw := { state := .idle, ready := false }
  dr := { state := .idle, ready := false, rdata := 0#32 }
  regs := Vector.replicate 16 0#32
  ibuf := []
  obuf := []
  irq := false

end Sys2Proof.Machine
end

