-- ==== Sys2Proof/Machine/Flags.lean ====
section
/-! DEFINITION. Every flag computation of the spec. The bridge has no arithmetic condition codes (10_state.md R30); its
Boolean computations are the combiner wire, the `GO` test and the sticky flags with their four-way AND
(44_control_and_arithmetic.md R126). -/

namespace Sys2Proof.Machine

open Sys2Proof Config

/-- The write-valid combiner: `dev_wvalid = aw_aux_valid AND w_aux_valid`, a wire on `S(t)` (R88). -/
def State.devWvalid (s : State) : Bool := s.aw.auxValid && s.w.auxValid

/-- `GO` of a register-0 value: bit `CTRL_BIT` = 7 (R112, R62). -/
def goBit (v : Word) : Bool := v.getLsbD ctrlBit

/-- One sticky flag's next value while collecting: itself OR its signal (R90). -/
def sticky (flag signal : Bool) : Bool := flag || signal

/-- All four sticky flags are 1 (R91). -/
def RespChannel.allObserved (b : RespChannel) : Bool := b.sAwv && b.sAwr && b.sWv && b.sWr

end Sys2Proof.Machine
end

