-- ==== Sys2Proof/Syntax.lean ====
section
/-! DEFINITION. The operations of the bridge, one constructor per row of spec/opcode_table.json (30_encoding.md rules
R61 to R64). The bridge executes no instructions (R13): an `Instr` is one decoded bus transaction, with its operands
assembled as R62 says. `COMPUTE` (R118) has no row; it is the second tick of a `wrCtrl`. -/

namespace Sys2Proof

/-- One decoded bus transaction. `low` is the address's two ignored low bits (R50); a word index `k` stands for the
buffer word at byte index `4 * k` (R62: word base minus region offset). -/
inductive Instr where
  /-- `WR_CTRL` (R112): write register 0 and take the control action. -/
  | wrCtrl (low : LowBits) (data : Word) (strb : Strobe)
  /-- `WR_REG` (R113): write one of registers 1 to 15. -/
  | wrReg (idx : Fin 16) (low : LowBits) (data : Word) (strb : Strobe)
  /-- `WR_IBUF` (R114): write bytes of one InputBuffer word. -/
  | wrIbuf (k : Nat) (low : LowBits) (data : Word) (strb : Strobe)
  /-- `WR_OBUF` (R115): a write whose address decodes to the OutputBuffer region. -/
  | wrObuf (k : Nat) (low : LowBits) (data : Word) (strb : Strobe)
  /-- `WR_UNMAPPED` (R116): a write to an address in no region. -/
  | wrUnmapped (a : Nat) (data : Word) (strb : Strobe)
  /-- `RD_REG` (R131): read a register. -/
  | rdReg (idx : Fin 16) (low : LowBits)
  /-- `RD_OBUF` (R132): read a word of the OutputBuffer. -/
  | rdObuf (k : Nat) (low : LowBits)
  /-- `RD_IBUF` (R134): a read whose address decodes to the InputBuffer region. -/
  | rdIbuf (k : Nat) (low : LowBits)
  /-- `RD_UNMAPPED` (R133): a read of an address in no region. -/
  | rdUnmapped (a : Nat)
deriving DecidableEq, Repr

/-- The row's mnemonic, letter for letter as the table has it. -/
def Instr.mnemonic : Instr → String
  | .wrCtrl _ _ _ => "WR_CTRL"
  | .wrReg _ _ _ _ => "WR_REG"
  | .wrIbuf _ _ _ _ => "WR_IBUF"
  | .wrObuf _ _ _ _ => "WR_OBUF"
  | .wrUnmapped _ _ _ => "WR_UNMAPPED"
  | .rdReg _ _ => "RD_REG"
  | .rdObuf _ _ => "RD_OBUF"
  | .rdIbuf _ _ => "RD_IBUF"
  | .rdUnmapped _ => "RD_UNMAPPED"

/-- The direction of the transaction (R61: `dir` is 1 for a write). -/
def Instr.isWrite : Instr → Bool
  | .wrCtrl _ _ _ => true
  | .wrReg _ _ _ _ => true
  | .wrIbuf _ _ _ _ => true
  | .wrObuf _ _ _ _ => true
  | .wrUnmapped _ _ _ => true
  | .rdReg _ _ => false
  | .rdObuf _ _ => false
  | .rdIbuf _ _ => false
  | .rdUnmapped _ => false

end Sys2Proof
end

