-- ==== Sys2Proof/WellFormed.lean ====
section
/-! DEFINITION. Well-formed configurations (00_scope.md R3, one check per item) and well-formed operations for a
configuration (30_encoding.md R63, the general conditions). -/

namespace Sys2Proof

open Config

/-- R3 (a): `M` is 32. -/
def Cfg.widthOk (c : Cfg) : Bool := decide (c.dataWidth = wordBits)

/-- R3 (b): `1 <= N`, `SIZE <= 2^N`, `BASE < 2^N`. -/
def Cfg.addressOk (c : Cfg) : Bool :=
  decide (1 ≤ c.addrWidth) && decide (c.size ≤ 2 ^ c.addrWidth) && decide (c.base < 2 ^ c.addrWidth)

/-- R3 (c): offsets and sizes are multiples of `BPW`; both sizes are greater than 0. -/
def Cfg.alignOk (c : Cfg) : Bool :=
  decide (c.rfileOffset % bpw = 0) && decide (c.rfileSize % bpw = 0) &&
  decide (c.wfileOffset % bpw = 0) && decide (c.wfileSize % bpw = 0) &&
  decide (0 < c.rfileSize) && decide (0 < c.wfileSize)

/-- Two half-open ranges given by start and length have no number in common. -/
def disjointRanges (a la b lb : Nat) : Bool :=
  decide (a + la ≤ b) || decide (b + lb ≤ a)

/-- R3 (d): the three regions are pairwise disjoint. -/
def Cfg.disjointOk (c : Cfg) : Bool :=
  disjointRanges 0 regSpan c.rfileOffset c.rfileSize &&
  disjointRanges 0 regSpan c.wfileOffset c.wfileSize &&
  disjointRanges c.rfileOffset c.rfileSize c.wfileOffset c.wfileSize

/-- R3 (e): all three regions lie inside `[0, SIZE)`. -/
def Cfg.insideOk (c : Cfg) : Bool :=
  decide (regSpan ≤ c.size) && decide (c.rfileOffset + c.rfileSize ≤ c.size) &&
  decide (c.wfileOffset + c.wfileSize ≤ c.size)

/-- R3 (f): under the XOR policy `SIZE` is a power of two and `BASE` a multiple of it. -/
def Cfg.policyOk (c : Cfg) : Bool :=
  decide (c.base < c.size) || (decide (c.size = 2 ^ Nat.log2 c.size) && decide (c.base % c.size = 0))

/-- R3: the configuration is well formed; a model refuses any other. -/
def Cfg.wf (c : Cfg) : Bool :=
  c.widthOk && c.addressOk && c.alignOk && c.disjointOk && c.insideOk && c.policyOk

/-- The address lies in no region (R44, row 4), and is an `N`-bit address. -/
def Cfg.unmappedOk (c : Cfg) (a : Nat) : Bool :=
  decide (a < 2 ^ c.addrWidth) && !decide (a < regSpan) &&
  !(decide (c.rfileOffset ≤ a) && decide (a < c.rfileOffset + c.rfileSize)) &&
  !(decide (c.wfileOffset ≤ a) && decide (a < c.wfileOffset + c.wfileSize))

/-- The operation is one the decoder of configuration `c` can select (R63). -/
def Instr.wf (c : Cfg) : Instr → Bool
  | .wrCtrl _ _ _ => true
  | .wrReg idx _ _ _ => decide (idx ≠ 0)
  | .wrIbuf k _ _ _ => decide (bpw * k < c.rfileSize)
  | .wrObuf k _ _ _ => decide (bpw * k < c.wfileSize)
  | .wrUnmapped a _ _ => c.unmappedOk a
  | .rdReg _ _ => true
  | .rdObuf k _ => decide (bpw * k < c.wfileSize)
  | .rdIbuf k _ => decide (bpw * k < c.rfileSize)
  | .rdUnmapped a => c.unmappedOk a

end Sys2Proof
end

