-- ==== Sys2Proof/Decode.lean ====
section
/-! DEFINITION. Address decode and the decoded transaction (20_memory.md R44, R45; 30_encoding.md R61 to R64), as a
total function; the transaction's byte layout, its decoder, which rejects by name, and its encoder; the match and mask
table of CFG_REF.

The bridge fetches nothing (R13). The spec's encoding is the decode word `D = dir : a` of `N+1` bits (R61) beside the
write payload `data`, `strb`. The byte layout around them is the model's (notes/assumptions/10.md): `D` in as many whole
bytes as it needs, least significant byte first, then for a write four data bytes, least significant first, and one byte
that holds the strobe in its low four bits. -/

namespace Sys2Proof

open Config

/-- The four answers of the address decoder (R44). -/
inductive Region where
  | reg
  | ibuf
  | obuf
  | unmapped
deriving DecidableEq, Repr

/-- `region(a)`: the first matching row (R44). -/
def region (c : Cfg) (a : Nat) : Region :=
  if a < regSpan then .reg
  else if c.rfileOffset ≤ a ∧ a < c.rfileOffset + c.rfileSize then .ibuf
  else if c.wfileOffset ≤ a ∧ a < c.wfileOffset + c.wfileSize then .obuf
  else .unmapped

/-- The register index `a >> LB` of an address in the register region (R45, R62). -/
def regIndex (a : Nat) : Fin 16 := Fin.ofNat 16 (a >>> lb)

/-- `a & ~(BPW-1)`: the address with its low `LB` bits cleared (R47, R62). -/
def wordBase (a : Nat) : Nat := a - a % bpw

/-- The low `LB` bits of an address (R50). -/
def lowBits (a : Nat) : LowBits := BitVec.ofNat 2 a

/-- The word index in a buffer that starts at `offset`: `(wb - offset) / BPW` (R62). -/
def wordIndex (offset : Nat) (a : Nat) : Nat := (wordBase a - offset) / bpw

/-- The decoded transaction record of R61, after address translation. -/
inductive Transaction where
  /-- `dir` = 1: a write, with the captured data and strobe. -/
  | write (a : Nat) (data : Word) (strb : Strobe)
  /-- `dir` = 0: a read. -/
  | read (a : Nat)
deriving DecidableEq, Repr

/-- The operation a write selects (R45, R63 rows 1 to 5, R111). -/
def decodeWrite (c : Cfg) (a : Nat) (data : Word) (strb : Strobe) : Instr :=
  match region c a with
  | .reg =>
    if regIndex a = 0 then .wrCtrl (lowBits a) data strb
    else .wrReg (regIndex a) (lowBits a) data strb
  | .ibuf => .wrIbuf (wordIndex c.rfileOffset a) (lowBits a) data strb
  | .obuf => .wrObuf (wordIndex c.wfileOffset a) (lowBits a) data strb
  | .unmapped => .wrUnmapped a data strb

/-- The operation a read selects (R45, R63 rows 6 to 9, R130). -/
def decodeRead (c : Cfg) (a : Nat) : Instr :=
  match region c a with
  | .reg => .rdReg (regIndex a) (lowBits a)
  | .obuf => .rdObuf (wordIndex c.wfileOffset a) (lowBits a)
  | .ibuf => .rdIbuf (wordIndex c.rfileOffset a) (lowBits a)
  | .unmapped => .rdUnmapped a

/-- The operation a transaction selects; total, none is illegal (R66). -/
def decodeTransaction (c : Cfg) : Transaction → Instr
  | .write a data strb => decodeWrite c a data strb
  | .read a => decodeRead c a

/-! ### Bytes -/

/-- Why a byte sequence holds no transaction. -/
inductive DecodeError where
  /-- The bytes end before the transaction does. -/
  | truncated
  /-- A bit above the decode word's `N+1`, or above the strobe's four, is 1. -/
  | reservedBits
deriving DecidableEq, Repr

/-- How many whole bytes the `N+1` bits of the decode word take. -/
def decodeWordBytes (c : Cfg) : Nat := (c.addrWidth + 8) / 8

/-- The low `n` bytes of a number, least significant first. -/
def bytesOfNat : Nat → Nat → List Byte
  | 0, _ => []
  | n + 1, v => BitVec.ofNat 8 v :: bytesOfNat n (v / 256)

/-- The number whose bytes, least significant first, are given. -/
def natOfBytes : List Byte → Nat
  | [] => 0
  | b :: rest => b.toNat + 256 * natOfBytes rest

/-- A data word from its four lanes, lane 0 least significant (R49). -/
def wordOfLanes (b0 b1 b2 b3 : Byte) : Word := b3 ++ b2 ++ b1 ++ b0

/-- `byte_i(v)`: bits `8i+7 : 8i` (00_scope.md section 4.1, R49). -/
def lane (i : Nat) (v : Word) : Byte := v.extractLsb' (8 * i) 8

/-- Reads one transaction and leaves the bytes after it. -/
def parse (c : Cfg) (bytes : List Byte) : Except DecodeError (Transaction × List Byte) :=
  if bytes.length < decodeWordBytes c then .error .truncated
  else
    let d := natOfBytes (bytes.take (decodeWordBytes c))
    let rest := bytes.drop (decodeWordBytes c)
    if 2 ^ (c.addrWidth + 1) ≤ d then .error .reservedBits
    else if d < 2 ^ c.addrWidth then .ok (.read d, rest)
    else
      match rest with
      | b0 :: b1 :: b2 :: b3 :: st :: rest' =>
        if 16 ≤ st.toNat then .error .reservedBits
        else .ok (.write (d - 2 ^ c.addrWidth) (wordOfLanes b0 b1 b2 b3) (st.setWidth 4), rest')
      | _ => .error .truncated

/-- The decoder: total on any bytes, rejecting by name. -/
def decode (c : Cfg) (bytes : List Byte) : Except DecodeError (Instr × List Byte) :=
  match parse c bytes with
  | .ok (t, rest) => .ok (decodeTransaction c t, rest)
  | .error e => .error e

/-- The decode word `D = dir : a`, `dir` in bit `N` (R61). -/
def decodeWord (c : Cfg) : Transaction → Nat
  | .write a _ _ => 2 ^ c.addrWidth + a
  | .read a => a

/-- The bytes of a transaction. -/
def Transaction.bytes (c : Cfg) (t : Transaction) : List Byte :=
  bytesOfNat (decodeWordBytes c) (decodeWord c t) ++
  match t with
  | .write _ data strb => [lane 0 data, lane 1 data, lane 2 data, lane 3 data, strb.setWidth 8]
  | .read _ => []

/-- The transaction that selects an operation: the address is assembled from the operands (R62, R63). -/
def encodeTransaction (c : Cfg) : Instr → Transaction
  | .wrCtrl low data strb => .write low.toNat data strb
  | .wrReg idx low data strb => .write (bpw * idx.val + low.toNat) data strb
  | .wrIbuf k low data strb => .write (c.rfileOffset + bpw * k + low.toNat) data strb
  | .wrObuf k low data strb => .write (c.wfileOffset + bpw * k + low.toNat) data strb
  | .wrUnmapped a data strb => .write a data strb
  | .rdReg idx low => .read (bpw * idx.val + low.toNat)
  | .rdObuf k low => .read (c.wfileOffset + bpw * k + low.toNat)
  | .rdIbuf k low => .read (c.rfileOffset + bpw * k + low.toNat)
  | .rdUnmapped a => .read a

/-- The encoder: the bytes of a well-formed operation. -/
def encode (c : Cfg) (i : Instr) : List Byte := (encodeTransaction c i).bytes c

/-! ### The table of CFG_REF -/

/-- One row of R63's table: mnemonic, match, mask, on the 33-bit decode word. -/
structure TableRow where
  mnemonic : String
  mtch : BitVec 33
  mask : BitVec 33
deriving DecidableEq, Repr

/-- R63's match and mask columns for CFG_REF, in order. -/
def opcodeTable : List TableRow :=
  [⟨"WR_CTRL", 0x100000000#33, 0x1FFFFFFFC#33⟩,
   ⟨"WR_REG", 0x100000000#33, 0x1FFFFFFC0#33⟩,
   ⟨"WR_IBUF", 0x100000100#33, 0x1FFFFFFC0#33⟩,
   ⟨"WR_OBUF", 0x100000200#33, 0x1FFFFFFE0#33⟩,
   ⟨"WR_UNMAPPED", 0x100000000#33, 0x100000000#33⟩,
   ⟨"RD_REG", 0x000000000#33, 0x1FFFFFFC0#33⟩,
   ⟨"RD_OBUF", 0x000000200#33, 0x1FFFFFFE0#33⟩,
   ⟨"RD_IBUF", 0x000000100#33, 0x1FFFFFFC0#33⟩,
   ⟨"RD_UNMAPPED", 0x000000000#33, 0x100000000#33⟩]

/-- The mnemonic of the first row that matches (R63, R64: first match wins). -/
def firstMatch (d : BitVec 33) : Option String :=
  (opcodeTable.find? (fun r => d &&& r.mask == r.mtch)).map (·.mnemonic)

/-! ### The host's question -/

/-- How many bytes the longest transaction takes: the decode word, four data bytes and the strobe byte. -/
def longestBytes (c : Cfg) : Nat := decodeWordBytes c + 5

/-- The bytes of an instruction given as one number: bits from `nbits` up are 0. -/
def tableWordBytes (c : Cfg) (nbits w : Nat) : List Byte := bytesOfNat (longestBytes c) (w % 2 ^ nbits)

/-- What the decoder reads from an instruction whose bits are `w`, numbered as the opcode table (which is CFG_REF's)
numbers them. -/
def decodeTableWord (nbits w : Nat) : Option Instr :=
  match decode Cfg.ref (tableWordBytes Cfg.ref nbits w) with
  | .ok (i, _) => some i
  | .error _ => none

end Sys2Proof
end

