-- ==== Sys2Proof/Machine/Operands.lean ====
section
/-! DEFINITION. Every way an operand is obtained (30_encoding.md R62): the translated address (20_memory.md R42), the
strobed merge (R46), the lane enables and the buffer byte index of a lane. Address decode and the word base stand in
Decode.lean. -/

namespace Sys2Proof.Machine

open Sys2Proof Config

/-- An address port is `N` bits wide (R11): what reaches the bridge of a driven number. -/
def portAddr (c : Cfg) (raw : Nat) : Nat := raw % 2 ^ c.addrWidth

/-- `xlate(raw)` (R42): XOR with `BASE` when `BASE >= SIZE`, else subtraction of `BASE` modulo `2^N`. -/
def xlate (c : Cfg) (raw : Nat) : Nat :=
  if c.size ≤ c.base then (portAddr c raw ^^^ c.base) % 2 ^ c.addrWidth
  else (portAddr c raw + (2 ^ c.addrWidth - c.base)) % 2 ^ c.addrWidth

/-- `strb[i]`: lane `i` of the write is enabled (R49, R62). -/
def laneEnabled (strb : Strobe) (i : Nat) : Bool := strb.getLsbD i

/-- One lane of a strobed write: the new byte where the strobe enables it, else the old one (R46). -/
def mergeLane (old data : Word) (strb : Strobe) (i : Nat) : Byte :=
  if laneEnabled strb i then lane i data else lane i old

/-- `merge(old, data, strb)` (R46): unstrobed lanes are preserved. -/
def merge (old data : Word) (strb : Strobe) : Word :=
  wordOfLanes (mergeLane old data strb 0) (mergeLane old data strb 1) (mergeLane old data strb 2)
    (mergeLane old data strb 3)

/-- `k0`, the byte index in its buffer of the first lane of word `k` (R114, R132: `wb - OFFSET`). -/
def wordByteIndex (k : Nat) : Nat := bpw * k

end Sys2Proof.Machine
end

