-- ==== Sys2Proof/Machine/Ops.lean ====
section
/-! DEFINITION. The named operations over the buffers, the registers and the device procedures' handshake: `MemWrite`
and `MemRead` (20_memory.md R47, R48), the compute step (42_device_write.md R118), completion (R110, R130), the draw
(43_device_read.md R133), and the reset tick (70_reset_and_hazards.md R160).

TAKING AN EXCEPTION and returning from one: the bridge has neither. It "raises no synchronous exception" (R140), "has
no trap mechanism", "saves no state on any event, changes no mode, has no vector table, no handler address, no return
operation" (R149), so there is no such operation to write (notes/assumptions/12.md). The one event that overrides the
processes is the reset tick, below. -/

namespace Sys2Proof.Machine

open Sys2Proof Config

/-! ### Byte buffers -/

/-- What an unlisted byte of a buffer reads as (notes/assumptions/5.md). -/
def Mem.unlisted : Byte := 0#8

/-- One byte of a buffer. -/
def Mem.read : Mem → Nat → Byte
  | [], _ => Mem.unlisted
  | (a, v) :: rest, k => if a = k then v else Mem.read rest k

/-- The entry a byte needs: none when an unlisted byte already reads so. -/
def Mem.entry (k : Nat) (v : Byte) : Mem := if v = Mem.unlisted then [] else [(k, v)]

/-- One byte of a buffer replaced; the canonical form is kept. -/
def Mem.write (m : Mem) (k : Nat) (v : Byte) : Mem :=
  m.filter (fun c => decide (c.1 < k)) ++ Mem.entry k v ++ m.filter (fun c => decide (k < c.1))

/-- The canonical form: indices strictly rise, and no entry equals what an unlisted byte reads as. -/
def Mem.wf (m : Mem) : Bool :=
  decide (m.Pairwise (fun x y => x.1 < y.1)) && m.all (fun c => c.2 != Mem.unlisted)

/-- Every listed index lies below the buffer's size. -/
def Mem.within (m : Mem) (size : Nat) : Bool := m.all (fun c => decide (c.1 < size))

/-- One lane of a strobed buffer write. -/
def Mem.writeLane (m : Mem) (k0 : Nat) (data : Word) (strb : Strobe) (i : Nat) : Mem :=
  if laneEnabled strb i then m.write (k0 + i) (lane i data) else m

/-- `MemWrite` on a buffer word (R47, R114): each enabled lane `i` goes to byte `k0 + i`. -/
def Mem.writeWord (m : Mem) (k0 : Nat) (data : Word) (strb : Strobe) : Mem :=
  (((m.writeLane k0 data strb 0).writeLane k0 data strb 1).writeLane k0 data strb 2).writeLane k0 data strb 3

/-- `MemRead` of a buffer word (R48, R132): lane `i` is byte `k0 + i`. -/
def Mem.readWord (m : Mem) (k0 : Nat) : Word :=
  wordOfLanes (m.read k0) (m.read (k0 + 1)) (m.read (k0 + 2)) (m.read (k0 + 3))

/-- The first `n` bytes of `src` copied over those of `dst`, offset to offset (R118). -/
def Mem.copy (src dst : Mem) : Nat → Mem
  | 0 => dst
  | n + 1 => (Mem.copy src dst n).write n (src.read n)

/-- A buffer of `n` bytes, byte `k` given by `f k`. -/
def Mem.fill (f : Nat → Byte) : Nat → Mem
  | 0 => []
  | n + 1 => (Mem.fill f n).write n (f n)

/-! ### Registers -/

/-- A register, as it reads (R131). -/
def State.readReg (s : State) (idx : Fin 16) : Word := s.regs[idx]

/-- A register replaced. -/
def State.writeReg (s : State) (idx : Fin 16) (v : Word) : State := { s with regs := s.regs.set idx v }

/-- `MemWrite(REG, ...)`: the strobed merge into a register (R47, R113). -/
def State.mergeReg (s : State) (idx : Fin 16) (data : Word) (strb : Strobe) : State :=
  s.writeReg idx (merge (s.readReg idx) data strb)

/-! ### Buffers and the interrupt line -/

/-- `MemWrite(IBUF, ...)` (R47, R114). -/
def State.writeIbuf (s : State) (k0 : Nat) (data : Word) (strb : Strobe) : State :=
  { s with ibuf := s.ibuf.writeWord k0 data strb }

/-- InterruptRequest assigned (R27, R147). -/
def State.setIrq (s : State) (v : Bool) : State := { s with irq := v }

/-- `L = min(RFILE_SIZE, WFILE_SIZE)`, the length of the copy (R118). -/
def Cfg.copyLength (c : Cfg) : Nat := min c.rfileSize c.wfileSize

/-- `COMPUTE` (R118): `obuf[i] <- ibuf[i]` for `i` below `L`, all in one tick. -/
def State.compute (s : State) : State :=
  { s with obuf := Mem.copy s.ibuf s.obuf (Cfg.copyLength s.cfg) }

/-! ### Completion of the device procedures -/

/-- `dev_wready <- 1`, `dw_state <- DW_ACK`: a write is complete (R110, R117). -/
def State.completeWrite (s : State) : State := { s with dw := { state := .ack, ready := true } }

/-- `dw_state <- DW_COMPUTE`; `dev_wready` is not assigned (R110). -/
def State.startCompute (s : State) : State := { s with dw := { s.dw with state := .compute } }

/-- `dev_wready <- 0`, `dw_state <- DW_IDLE` (R119). -/
def State.finishWrite (s : State) : State := { s with dw := { state := .idle, ready := false } }

/-- `dev_rdata <- result`, `dev_rready <- 1`, `dr_state <- DR_ACK`: a read is complete (R130). -/
def State.completeRead (s : State) (result : Word) : State :=
  { s with dr := { state := .ack, ready := true, rdata := result } }

/-- `dev_rready <- 0`, `dr_state <- DR_IDLE`; `dev_rdata` is not cleared (R135). -/
def State.finishRead (s : State) : State := { s with dr := { s.dr with state := .idle, ready := false } }

/-- `any_M()` (R133): the free value this state's counter selects. -/
def State.anyM (s : State) : Word := Config.anyM s.draws

/-- The counter of the free values moves on, so that the next draw need not agree. -/
def State.nextDraw (s : State) : State := { s with draws := s.draws + 1 }

/-! ### Inputs -/

/-- `I(t)`: the head of the coming inputs, zero when none is left. -/
def State.input (s : State) : Input := s.inputs.headD Input.zero

/-- `I(t+1)`. -/
def State.nextInput (s : State) : Input := s.inputs.tail.headD Input.zero

/-- `I(t+k)`. -/
def State.inputAt (s : State) (k : Nat) : Input := (s.inputs.drop k).headD Input.zero

/-! ### Reset -/

/-- The reset tick (R160): the reset state of R32 and R33; the payload registers, the registers and the buffers take
free values (R34 to R36: arbitrary, then stable until written; "zero" and "preserve" are both instances). -/
def State.resetTick (s : State) : State where
  cfg := s.cfg
  inputs := s.inputs.tail
  draws := s.draws + 1
  aw := { state := .readyHigh, ready := false, auxValid := false, addr := portAddr s.cfg (resetWaddr s.draws) }
  w := { state := .readyHigh, ready := false, auxValid := false, data := resetWdata s.draws,
         strb := resetWstrb s.draws }
  b := { state := .collect, valid := false, sAwv := false, sAwr := false, sWv := false, sWr := false }
  ar := { state := .readyHigh, ready := false, auxValid := false, addr := portAddr s.cfg (resetRaddr s.draws) }
  r := { state := .idle, valid := false, data := resetRdata s.draws }
  dw := { state := .idle, ready := false }
  dr := { state := .idle, ready := false, rdata := resetDevRdata s.draws }
  regs := Vector.ofFn (fun i => resetReg s.draws i.val)
  ibuf := Mem.fill (resetIbuf s.draws) s.cfg.rfileSize
  obuf := Mem.fill (resetObuf s.draws) s.cfg.wfileSize
  irq := false

/-! ### A captured transaction, for `withFetchWord` -/

/-- The head input with reset not asserted, the rest as they are. -/
def clearReset : List Input → List Input
  | [] => []
  | i :: rest => { i with reset := false } :: rest

/-- A transaction placed where the device procedures take their next one: both write channels, or the read-address
channel, hold it as captured and wait for the device (R82, R85, R102), and the procedure is idle. Reset is not asserted
in the coming tick. Nothing else changes (notes/assumptions/3.md). -/
def State.present (s : State) : Transaction → State
  | .write a data strb =>
    { s with
      inputs := clearReset s.inputs
      aw := { state := .awaitDeviceReady, ready := false, auxValid := true, addr := a }
      w := { state := .awaitDeviceReady, ready := false, auxValid := true, data := data, strb := strb }
      dw := { state := .idle, ready := false } }
  | .read a =>
    { s with
      inputs := clearReset s.inputs
      ar := { state := .awaitDeviceReady, ready := false, auxValid := true, addr := a }
      dr := { s.dr with state := .idle, ready := false } }

end Sys2Proof.Machine
end

