-- ==== Sys2Proof/Machine/Channels.lean ====
section
/-! DEFINITION. The five channel processes (40_write_channels.md R80 to R92, 41_read_channels.md R100 to R107). Each is
a function of `S(t)` and `I(t)` to the elements its process owns in `S(t+1)` (00_scope.md R4, 10_state.md R28). -/

namespace Sys2Proof.Machine

open Sys2Proof Config

/-- The shape `AW` and `AR` share (R81 to R83, R101 to R103): `valid` and `raw` are the port's, `devReady` the device's
ready of that direction. -/
def AddrChannel.tick (c : Cfg) (ch : AddrChannel) (valid : Bool) (raw : Nat) (devReady : Bool) : AddrChannel :=
  match ch.state with
  | .readyHigh => { ch with ready := true, state := .awaitValid }
  | .awaitValid =>
    if valid then { state := .awaitDeviceReady, ready := false, auxValid := true, addr := xlate c raw } else ch
  | .awaitDeviceReady => if devReady then { ch with auxValid := false, state := .readyHigh } else ch

/-- `AW` (R81 to R83). -/
def nextAw (s : State) (i : Input) : AddrChannel := s.aw.tick s.cfg i.awvalid i.awaddr s.dw.ready

/-- `AR` (R101 to R103): `AW`'s rules with the read side's signals (R100). -/
def nextAr (s : State) (i : Input) : AddrChannel := s.ar.tick s.cfg i.arvalid i.araddr s.dr.ready

/-- `W` (R84 to R86): the data is captured whole, strobed or not. -/
def nextW (s : State) (i : Input) : DataChannel :=
  match s.w.state with
  | .readyHigh => { s.w with ready := true, state := .awaitValid }
  | .awaitValid =>
    if i.wvalid then
      { state := .awaitDeviceReady, ready := false, auxValid := true, data := i.wdata, strb := i.wstrb }
    else s.w
  | .awaitDeviceReady => if s.dw.ready then { s.w with auxValid := false, state := .readyHigh } else s.w

/-- `B` (R90 to R92): the valids are read from the ports, the readies from the channels' registers; nothing is sampled
while the response is held. -/
def nextB (s : State) (i : Input) : RespChannel :=
  match s.b.state with
  | .collect =>
    if s.b.allObserved then { s.b with valid := true, state := .respond }
    else
      { s.b with
        sAwv := sticky s.b.sAwv i.awvalid
        sAwr := sticky s.b.sAwr s.aw.ready
        sWv := sticky s.b.sWv i.wvalid
        sWr := sticky s.b.sWr s.w.ready }
  | .respond =>
    if i.bready then
      { state := .collect, valid := false, sAwv := false, sAwr := false, sWv := false, sWr := false }
    else s.b

/-- `R` (R105 to R107). -/
def nextR (s : State) (i : Input) : ReadChannel :=
  match s.r.state with
  | .idle => if s.dr.ready then { state := .validate, valid := true, data := s.dr.rdata } else s.r
  | .validate => if i.rready then { s.r with valid := false, state := .drain } else s.r
  | .drain => if s.dr.ready then s.r else { s.r with state := .idle }

end Sys2Proof.Machine
end

