-- ==== Sys2Proof/Machine/DeviceRead.lean ====
section
/-! DEFINITION. The four read operations (43_device_read.md R131 to R134), each as everything the device read procedure
assigns in the perform tick (R130). Reads assign no storage (R137). -/

namespace Sys2Proof.Machine

open Sys2Proof Config

/-- `RD_REG` (R131): the whole register; the low address bits are ignored. -/
def execRdReg (idx : Fin 16) (_low : LowBits) (s : State) : Host.Outcome State Fault Refusal :=
  .next (s.completeRead (s.readReg idx))

/-- `RD_OBUF` (R132): the whole OutputBuffer word, lowest byte in lane 0. -/
def execRdObuf (k : Nat) (_low : LowBits) (s : State) : Host.Outcome State Fault Refusal :=
  .next (s.completeRead (s.obuf.readWord (wordByteIndex k)))

/-- `RD_IBUF` (R134): behaves as an unmapped read; the data is a draw. -/
def execRdIbuf (_k : Nat) (_low : LowBits) (s : State) : Host.Outcome State Fault Refusal :=
  .next (s.completeRead s.anyM).nextDraw

/-- `RD_UNMAPPED` (R133): the data is a draw, a fresh one for each such read. -/
def execRdUnmapped (_a : Nat) (s : State) : Host.Outcome State Fault Refusal :=
  .next (s.completeRead s.anyM).nextDraw

end Sys2Proof.Machine
end

