-- ==== Sys2Proof/Machine/DeviceWrite.lean ====
section
/-! DEFINITION. The five write operations (42_device_write.md R112 to R116), each as everything the device write
procedure assigns in the perform tick (R110), and the tick of the compute step (R117). -/

namespace Sys2Proof.Machine

open Sys2Proof Config

/-- `WR_CTRL` (R112): register 0 takes the merged value; its bit 7 (`GO`) starts the compute step, or clears `irq`. -/
def execWrCtrl (_low : LowBits) (data : Word) (strb : Strobe) (s : State) : Host.Outcome State Fault Refusal :=
  if goBit (merge (s.readReg 0) data strb) then .next (s.mergeReg 0 data strb).startCompute
  else .next ((s.mergeReg 0 data strb).setIrq false).completeWrite

/-- `WR_REG` (R113): one of registers 1 to 15 takes the merged value. -/
def execWrReg (idx : Fin 16) (_low : LowBits) (data : Word) (strb : Strobe) (s : State) :
    Host.Outcome State Fault Refusal :=
  .next (s.mergeReg idx data strb).completeWrite

/-- `WR_IBUF` (R114): the enabled lanes of one InputBuffer word. -/
def execWrIbuf (k : Nat) (_low : LowBits) (data : Word) (strb : Strobe) (s : State) :
    Host.Outcome State Fault Refusal :=
  .next (s.writeIbuf (wordByteIndex k) data strb).completeWrite

/-- `WR_OBUF` (R115): accepted, completes like any other, changes nothing. -/
def execWrObuf (_k : Nat) (_low : LowBits) (_data : Word) (_strb : Strobe) (s : State) :
    Host.Outcome State Fault Refusal :=
  .next s.completeWrite

/-- `WR_UNMAPPED` (R116): "silently accepted as a no-op". -/
def execWrUnmapped (_a : Nat) (_data : Word) (_strb : Strobe) (s : State) : Host.Outcome State Fault Refusal :=
  .next s.completeWrite

/-- `DW` in `DW_COMPUTE` (R117): the copy, `irq <- 1` and completion, together. -/
def computeTick (s : State) : State := (s.compute.setIrq true).completeWrite

end Sys2Proof.Machine
end

