-- ==== Sys2Proof/Machine/Dispatch.lean ====
section
/-! DEFINITION. One arm per operation (42_device_write.md R111, 43_device_read.md R130). -/

namespace Sys2Proof.Machine

open Sys2Proof

def exec (i : Instr) (s : State) : Host.Outcome State Fault Refusal :=
  match i with
  | .wrCtrl low data strb => Sys2Proof.Machine.execWrCtrl low data strb s
  | .wrReg idx low data strb => Sys2Proof.Machine.execWrReg idx low data strb s
  | .wrIbuf k low data strb => Sys2Proof.Machine.execWrIbuf k low data strb s
  | .wrObuf k low data strb => Sys2Proof.Machine.execWrObuf k low data strb s
  | .wrUnmapped a data strb => Sys2Proof.Machine.execWrUnmapped a data strb s
  | .rdReg idx low => Sys2Proof.Machine.execRdReg idx low s
  | .rdObuf k low => Sys2Proof.Machine.execRdObuf k low s
  | .rdIbuf k low => Sys2Proof.Machine.execRdIbuf k low s
  | .rdUnmapped a => Sys2Proof.Machine.execRdUnmapped a s

end Sys2Proof.Machine
end

