-- ==== Sys2Proof/Machine/Device.lean ====
section
/-! DEFINITION. The two device procedures as one tick each (42_device_write.md R110, R117, R119; 43_device_read.md R130,
R135), and the tick that puts the seven processes together (00_scope.md R4, 70_reset_and_hazards.md R160). -/

namespace Sys2Proof.Machine

open Sys2Proof Config

/-- The write transaction `DW` sees when `dev_wvalid` is 1, decoded (R61, R111). -/
def State.writeOperation (s : State) : Instr := decodeWrite s.cfg s.aw.addr s.w.data s.w.strb

/-- The read transaction `DR` sees when `ar_aux_valid` is 1, decoded (R61, R130). -/
def State.readOperation (s : State) : Instr := decodeRead s.cfg s.ar.addr

/-- `DW` for one tick (R110, R117, R119). -/
def deviceWriteTick (s : State) : Host.Outcome State Fault Refusal :=
  match s.dw.state with
  | .idle => if s.devWvalid then exec s.writeOperation s else .next s
  | .compute => .next (computeTick s)
  | .ack => if s.devWvalid then .next s else .next s.finishWrite

/-- `DR` for one tick (R130, R135). -/
def deviceReadTick (s : State) : Host.Outcome State Fault Refusal :=
  match s.dr.state with
  | .idle => if s.ar.auxValid then exec s.readOperation s else .next s
  | .ack => if s.ar.auxValid then .next s else .next s.finishRead

/-- `S(t+1)` put together (R4): each element is taken from the process that owns it (R28), `DW`'s from `dw`, `DR`'s
from `dr`, the channels' from their own rules; all of them read `s` = `S(t)`. -/
def assemble (s : State) (i : Input) (dw dr : State) : State where
  cfg := s.cfg
  inputs := s.inputs.tail
  draws := dr.draws
  aw := nextAw s i
  w := nextW s i
  b := nextB s i
  ar := nextAr s i
  r := nextR s i
  dw := dw.dw
  dr := dr.dr
  regs := dw.regs
  ibuf := dw.ibuf
  obuf := dw.obuf
  irq := dw.irq

/-- One tick without reset. -/
def processTick (s : State) : Host.Outcome State Fault Refusal :=
  match deviceWriteTick s with
  | .next dw =>
    match deviceReadTick s with
    | .next dr => .next (assemble s s.input dw dr)
    | .fault f => .fault f
    | .refused q => .refused q
  | .fault f => .fault f
  | .refused q => .refused q

/-- One tick (R160): reset dominates everything. -/
def tick (s : State) : Host.Outcome State Fault Refusal :=
  if s.input.reset then .next s.resetTick else processTick s

end Sys2Proof.Machine
end

