-- ==== Sys2Proof/Machine/Step.lean ====
section
/-! DEFINITION. One step is one tick of the clock (00_scope.md R4), for a well-formed configuration (R3); and how an
operation is placed where the very next step performs it. -/

namespace Sys2Proof.Machine

open Sys2Proof

/-- `S(t+1) = step(cfg, S(t), I(t), draws(t))` (R4); a configuration that is not well formed is refused (R3). -/
def step (s : State) : Host.Outcome State Fault Refusal :=
  if s.cfg.wf then tick s else .refused .configNotWellFormed

/-- The instruction whose bits are `w`, placed as captured by the channels, so that the next step performs it. Bits that
hold no transaction leave the state as it is. -/
def State.withFetchWord (s : State) (nbits w : Nat) : State :=
  match parse s.cfg (tableWordBytes s.cfg nbits w) with
  | .ok (t, _) => s.present t
  | .error _ => s

end Sys2Proof.Machine
end

