-- ==== Sys2Proof/Machine/Ports.lean ====
section
/-! DEFINITION. The bridge seen from the bus: the outputs as functions of `S(t)` (10_state.md R12, R38), the handshakes
of the five channels (00_scope.md R5), and the packing of each channel's payload into one format word
(30_encoding.md R60; nothing in the hardware depends on the packing). -/

namespace Sys2Proof.Machine

open Sys2Proof Config

/-- The output ports during one tick (R12). -/
structure Output where
  awready : Bool
  wready : Bool
  bvalid : Bool
  bresp : Resp
  arready : Bool
  rvalid : Bool
  rdata : Word
  rresp : Resp
  irq : Bool
deriving DecidableEq, Repr

/-- The outputs are functions of `S(t)` alone (R12); the two responses are the constant `RESP_OKAY` (R38). -/
def State.outputs (s : State) : Output where
  awready := s.aw.ready
  wready := s.w.ready
  bvalid := s.b.valid
  bresp := respOkay
  arready := s.ar.ready
  rvalid := s.r.valid
  rdata := s.r.data
  rresp := respOkay
  irq := s.irq

/-- The write-address transfer occurs in this tick (R5). -/
def State.awHandshake (s : State) : Bool := s.input.awvalid && s.aw.ready

/-- The write-data transfer occurs in this tick (R5). -/
def State.wHandshake (s : State) : Bool := s.input.wvalid && s.w.ready

/-- The write-response transfer occurs in this tick (R5). -/
def State.bHandshake (s : State) : Bool := s.b.valid && s.input.bready

/-- The read-address transfer occurs in this tick (R5). -/
def State.arHandshake (s : State) : Bool := s.input.arvalid && s.ar.ready

/-- The read-data transfer occurs in this tick (R5). -/
def State.rHandshake (s : State) : Bool := s.r.valid && s.input.rready

/-- The `AW` format word: `awaddr` in bits `N+2 : 3`, `awprot` in bits `2 : 0` (R60). -/
def Input.awWord (c : Cfg) (i : Input) : Nat := 8 * portAddr c i.awaddr + i.awprot.toNat

/-- The `W` format word: `wdata` in bits `M+BPW-1 : BPW`, `wstrb` in bits `BPW-1 : 0` (R60). -/
def Input.wWord (i : Input) : BitVec 36 := i.wdata ++ i.wstrb

/-- The `AR` format word: `araddr` in bits `N+2 : 3`, `arprot` in bits `2 : 0` (R60). -/
def Input.arWord (c : Cfg) (i : Input) : Nat := 8 * portAddr c i.araddr + i.arprot.toNat

/-- The `B` format word: `bresp` (R60). -/
def Output.bWord (o : Output) : BitVec 2 := o.bresp

/-- The `R` format word: `rdata` in bits `M+1 : 2`, `rresp` in bits `1 : 0` (R60). -/
def Output.rWord (o : Output) : BitVec 34 := o.rdata ++ o.rresp

end Sys2Proof.Machine
end

