-- ==== Sys2Proof/Safety.lean ====
section
/-! DEFINITION. What claims about the bridge are said in: the invariants of 10_state.md R29, what the device handshake
keeps (42_device_write.md R119), the interrupt line against the control bit (R29 (b)), quiescence (R178), what a
conformant master does (70_reset_and_hazards.md R170 to R172), and what then holds of responses (40_write_channels.md
R93, 41_read_channels.md R108). The bridge raises nothing (R140), so a safe run is one that keeps these. -/

namespace Sys2Proof.Machine

open Sys2Proof Config

/-! ### Invariants of every reachable state -/

/-- R29 (c), (d) for an address channel. -/
abbrev AddrChannel.Coherent (ch : AddrChannel) : Prop :=
  (ch.ready = true ↔ ch.state = .awaitValid) ∧ (ch.auxValid = true ↔ ch.state = .awaitDeviceReady)

/-- R29 (c), (d) for the data channel. -/
abbrev DataChannel.Coherent (ch : DataChannel) : Prop :=
  (ch.ready = true ↔ ch.state = .awaitValid) ∧ (ch.auxValid = true ↔ ch.state = .awaitDeviceReady)

/-- R29 (c) to (f): every flag agrees with the state of its process. -/
abbrev State.Coherent (s : State) : Prop :=
  s.aw.Coherent ∧ s.w.Coherent ∧ s.ar.Coherent ∧
  (s.b.valid = true ↔ s.b.state = .respond) ∧ (s.r.valid = true ↔ s.r.state = .validate) ∧
  (s.dw.ready = true ↔ s.dw.state = .ack) ∧ (s.dr.ready = true ↔ s.dr.state = .ack)

/-- Both buffers are in canonical form and hold no byte beyond their size (R25, R26). -/
abbrev State.BuffersOk (s : State) : Prop :=
  s.ibuf.wf = true ∧ s.obuf.wf = true ∧
  s.ibuf.within s.cfg.rfileSize = true ∧ s.obuf.within s.cfg.wfileSize = true

/-- The captured addresses have `N` bits (R14, R17). -/
abbrev State.AddressesOk (s : State) : Prop :=
  s.aw.addr < 2 ^ s.cfg.addrWidth ∧ s.ar.addr < 2 ^ s.cfg.addrWidth

/-- Where the channels stand while a device procedure is not idle (R119, R135): one valid pulse, performed once. -/
abbrev State.HandshakeOk (s : State) : Prop :=
  (s.dw.state = .compute → s.devWvalid = true) ∧
  (s.dw.state = .ack → s.devWvalid = true ∨ (s.aw.state = .readyHigh ∧ s.w.state = .readyHigh)) ∧
  (s.dr.state = .ack → s.ar.auxValid = true ∨ s.ar.state = .readyHigh)

/-- The compute step runs, and the interrupt line is 1, only while register 0 holds `GO` = 1 (R112, R117). -/
abbrev State.TriggerOk (s : State) : Prop :=
  (s.dw.state = .compute → goBit (s.readReg 0) = true) ∧ (s.irq = true → goBit (s.readReg 0) = true)

/-- The invariant of every reachable state. -/
abbrev State.Inv (s : State) : Prop :=
  s.cfg.wf = true ∧ s.Coherent ∧ s.BuffersOk ∧ s.AddressesOk ∧ s.HandshakeOk ∧ s.TriggerOk

/-- R29 (b), outside the compute step: InterruptRequest is the control bit of register 0. It holds from the first
register-0 write after reset on. -/
abbrev State.IrqAgrees (s : State) : Prop := s.dw.state ≠ .compute → s.irq = goBit (s.readReg 0)

/-- R178: the quiescent states reachable without a stall. -/
abbrev State.Quiescent (s : State) : Prop :=
  s.aw.state = .awaitValid ∧ s.w.state = .awaitValid ∧ s.ar.state = .awaitValid ∧
  s.aw.ready = true ∧ s.w.ready = true ∧ s.ar.ready = true ∧
  s.aw.auxValid = false ∧ s.w.auxValid = false ∧ s.ar.auxValid = false ∧
  s.b.state = .collect ∧ s.b.valid = false ∧
  s.b.sAwr = true ∧ s.b.sWr = true ∧ s.b.sAwv = false ∧ s.b.sWv = false ∧
  s.r.state = .idle ∧ s.r.valid = false ∧ s.dw.state = .idle ∧ s.dr.state = .idle ∧
  s.dw.ready = false ∧ s.dr.ready = false

/-! ### A conformant master, tick by tick -/

/-- R170: a raised valid is held, with its payload, until its handshake (or until a reset tick). -/
abbrev State.MasterHolds (s : State) : Prop :=
  s.input.reset = false → s.nextInput.reset = false →
    (s.input.awvalid = true → s.aw.ready = false →
      s.nextInput.awvalid = true ∧ s.nextInput.awaddr = s.input.awaddr) ∧
    (s.input.wvalid = true → s.w.ready = false →
      s.nextInput.wvalid = true ∧ s.nextInput.wdata = s.input.wdata ∧ s.nextInput.wstrb = s.input.wstrb) ∧
    (s.input.arvalid = true → s.ar.ready = false →
      s.nextInput.arvalid = true ∧ s.nextInput.araddr = s.input.araddr)

/-- R171: no handshake of the next write at or before the response handshake of the previous one. -/
abbrev State.OneWrite (s : State) : Prop :=
  s.input.reset = false → s.b.state = .respond → s.awHandshake = false ∧ s.wHandshake = false

/-- R172: no address handshake of the next read before the data handshake of the previous one. -/
abbrev State.OneRead (s : State) : Prop :=
  s.input.reset = false → s.r.state = .validate → s.arHandshake = true → s.rHandshake = true

/-! ### Responses under a conformant master -/

/-- One side (address or data) of the write-response synchronizer while it collects: `sv`, `sr` are the side's two
sticky flags, `ch` its channel's state, `held` that the master holds the side's valid in this tick. -/
abbrev CollectOk (sv sr : Bool) (ch : ChanState) (dw : WriteProcState) (held : Bool) : Prop :=
  (sv = true → sr = true → ch = .awaitDeviceReady) ∧ (sv = false → sr = true → ch = .awaitValid) ∧
  (sr = false → ch = .awaitDeviceReady → dw ≠ .idle) ∧ (sr = true → dw = .idle) ∧
  (sv = true → sr = false → held = true)

/-- What R93's argument keeps: a pair of flags of one side means that side's handshake of the current write. -/
abbrev State.ResponseOk (s : State) : Prop :=
  (s.b.state = .collect →
    CollectOk s.b.sAwv s.b.sAwr s.aw.state s.dw.state (s.input.awvalid || s.input.reset) ∧
    CollectOk s.b.sWv s.b.sWr s.w.state s.dw.state (s.input.wvalid || s.input.reset)) ∧
  (s.b.state = .respond →
    (s.aw.state = .awaitDeviceReady → s.dw.state ≠ .idle) ∧ (s.w.state = .awaitDeviceReady → s.dw.state ≠ .idle))

/-- What keeps a read's data from being missed (R107, R108, R172). -/
abbrev State.ReadOk (s : State) : Prop :=
  (s.ar.auxValid = true → s.dr.state = .idle → s.r.state ≠ .validate) ∧
  (s.ar.auxValid = true → s.dr.state = .ack → s.r.state = .idle) ∧
  (s.ar.auxValid = false → s.dr.state = .ack → s.r.state = .validate) ∧
  (s.r.state = .drain → s.dr.state = .idle)

/-! ### What an operation leaves alone -/

/-- Nothing of the channels, the configuration or the inputs differs: what no operation assigns (R28). -/
abbrev State.SameChannels (s t : State) : Prop :=
  t.cfg = s.cfg ∧ t.inputs = s.inputs ∧ t.aw = s.aw ∧ t.w = s.w ∧ t.b = s.b ∧ t.ar = s.ar ∧ t.r = s.r

/-- No register differs. -/
abbrev State.SameRegs (s t : State) : Prop := ∀ j : Fin 16, t.readReg j = s.readReg j

/-- Every byte of both buffers reads as before. -/
abbrev State.SameBytes (s t : State) : Prop :=
  ∀ k : Nat, t.ibuf.read k = s.ibuf.read k ∧ t.obuf.read k = s.obuf.read k

/-- Nothing of the device read procedure or the free-value counter differs: what no write assigns. -/
abbrev State.SameReadProc (s t : State) : Prop := t.dr = s.dr ∧ t.draws = s.draws

/-- The write is complete: `dev_wready` 1 and `DW` in `DW_ACK` (R110). -/
abbrev State.WriteDone (t : State) : Prop := t.dw.state = .ack ∧ t.dw.ready = true

/-- The read is complete with this result: `dev_rready` 1 and `DR` in `DR_ACK` (R130). -/
abbrev State.ReadDone (t : State) (result : Word) : Prop :=
  t.dr.state = .ack ∧ t.dr.ready = true ∧ t.dr.rdata = result

/-! ### Runs -/

/-- The property holds in each of the states before the first `n` steps of the run from `s`. -/
abbrev Throughout (n : Nat) (s : State) (P : State → Prop) : Prop :=
  ∀ (k : Nat) (u : State), k < n → Host.Core.run Sys2Proof.core k s = .next u → P u

/-- The input of a tick without reset in which the master presents nothing. -/
abbrev Input.Silent (i : Input) : Prop :=
  i.reset = false ∧ i.awvalid = false ∧ i.wvalid = false ∧ i.arvalid = false

/-! ### Input traces that claims drive the bridge with -/

/-- One tick in which the master presents a write's address and data together. -/
def Input.presentWrite (addr : Nat) (data : Word) (strb : Strobe) : Input :=
  { Input.zero with awvalid := true, awaddr := addr, wvalid := true, wdata := data, wstrb := strb }

/-- One tick in which the master presents a read's address. -/
def Input.presentRead (addr : Nat) : Input := { Input.zero with arvalid := true, araddr := addr }

/-- The same tick, with the write response accepted in it. -/
def Input.acceptingResponse (i : Input) : Input := { i with bready := true }

end Sys2Proof.Machine
end

