-- ==== Sys2Proof/Certificates/Slice0/Obligations.lean ====
section
/-! DEFINITION. The statements for the provers. Each docstring names the rules it rests on. A premise
`s.cfg.wf = true` is R3: the rules of the spec apply to well-formed configurations only. -/

open Sys2Proof Sys2Proof.Machine Sys2Proof.Config

/-! ### Encoding -/

/-- Decoding the bytes of a well-formed operation gives the operation back and leaves the bytes after it: no operand
bit is dropped (R61 to R64; the byte layout is the model's, notes/assumptions/10.md). -/
def Obligations.DecodeAfterEncodeGivesTheOperationBack : Prop :=
  ∀ (c : Cfg) (i : Instr) (rest : List Byte), c.wf = true → i.wf c = true →
    decode c (encode c i ++ rest) = .ok (i, rest)

/-- What decodes is the encoding of what it decodes to, and that operation is well formed: every byte sequence has at
most one meaning (R61 to R64; the byte layout is the model's, notes/assumptions/10.md). -/
def Obligations.DecodedBytesAreTheOperationsEncoding : Prop :=
  ∀ (c : Cfg) (bytes rest : List Byte) (i : Instr), c.wf = true → decode c bytes = .ok (i, rest) →
    i.wf c = true ∧ bytes = encode c i ++ rest

/-- Words written out from R63's table and 95_test_vectors.md section 3 decode to the operations they stand for: row,
register index, word index, low bits, address. The bytes the words are laid out in (notes/assumptions/10.md) and the data
0 and empty strobe of the five writes, whose table words carry no payload (notes/assumptions/3.md), are the model's
choice and not the table's. -/
def Obligations.WrittenOutWordsDecodeToTheirOperations : Prop :=
  decodeTableWord 40 0x100000003 = some (.wrCtrl 3#2 0#32 0#4) ∧
  decodeTableWord 40 0x10000003C = some (.wrReg 15 0#2 0#32 0#4) ∧
  decodeTableWord 40 0x100000105 = some (.wrIbuf 1 1#2 0#32 0#4) ∧
  decodeTableWord 40 0x100000200 = some (.wrObuf 0 0#2 0#32 0#4) ∧
  decodeTableWord 40 0x140000004 = some (.wrUnmapped 0x40000004 0#32 0#4) ∧
  decodeTableWord 40 0x00000000D = some (.rdReg 3 1#2) ∧
  decodeTableWord 40 0x00000021C = some (.rdObuf 7 0#2) ∧
  decodeTableWord 40 0x000000100 = some (.rdIbuf 0 0#2) ∧
  decodeTableWord 40 0x000000800 = some (.rdUnmapped 0x800)

/-- For CFG_REF the first matching row of R63's match and mask table is the row the decoder selects, for every decode
word `D = dir : a` (R61, R63, R64). -/
def Obligations.FirstMatchingRowIsTheDecodedOperation : Prop :=
  ∀ (d : BitVec 33) (data : Word) (strb : Strobe),
    (d.getLsbD 32 = true → firstMatch d = some (decodeWrite Cfg.ref (d.setWidth 32).toNat data strb).mnemonic) ∧
    (d.getLsbD 32 = false → firstMatch d = some (decodeRead Cfg.ref (d.setWidth 32).toNat).mnemonic)

/-- Decode is total: every `N`-bit address, data and strobe selects exactly one well-formed operation of its direction,
from which the transaction can be read back (R44, R66, R111, R130). -/
def Obligations.EveryTransactionSelectsOneOperation : Prop :=
  ∀ (c : Cfg) (a : Nat) (data : Word) (strb : Strobe), c.wf = true → a < 2 ^ c.addrWidth →
    (decodeWrite c a data strb).wf c = true ∧ (decodeWrite c a data strb).isWrite = true ∧
    encodeTransaction c (decodeWrite c a data strb) = .write a data strb ∧
    (decodeRead c a).wf c = true ∧ (decodeRead c a).isWrite = false ∧
    encodeTransaction c (decodeRead c a) = .read a

/-- The access at `a` and the access at its word base are the same access (R50). The spec's own decision D13. -/
def Obligations.LowAddressBitsSelectNothing : Prop :=
  ∀ (c : Cfg) (a : Nat) (data : Word) (strb : Strobe) (s : State), c.wf = true →
    exec (decodeWrite c a data strb) s = exec (decodeWrite c (wordBase a) data strb) s ∧
    exec (decodeRead c a) s = exec (decodeRead c (wordBase a)) s

/-! ### Translation -/

/-- On the window both policies subtract `BASE` (R43 (b)). The spec's own decisions D18, D23. -/
def Obligations.TranslationSubtractsBaseOnTheWindow : Prop :=
  ∀ (c : Cfg) (raw : Nat), c.wf = true → c.base ≤ raw → raw < c.base + c.size → raw < 2 ^ c.addrWidth →
    xlate c raw = raw - c.base

/-- An out-of-window bus address decodes as unmapped (R43 (c)), for a window that does not run past the top of the
bus address space; R43 (c) omits that premise, which it needs (notes/assumptions/13.md). The spec's own decision D23. -/
def Obligations.OutOfWindowAddressesAreUnmapped : Prop :=
  ∀ (c : Cfg) (raw : Nat), c.wf = true → c.base + c.size ≤ 2 ^ c.addrWidth → raw < 2 ^ c.addrWidth →
    ¬ (c.base ≤ raw ∧ raw < c.base + c.size) →
    c.size ≤ xlate c raw ∧ region c (xlate c raw) = .unmapped

/-- Without that premise it is false of R42, R44 and R3: a well-formed configuration whose window runs past the top of
the address space maps an address outside the window into the InputBuffer (notes/assumptions/13.md). -/
def Obligations.AWindowPastTheTopAliasesAnOutsideAddress : Prop :=
  ∃ (c : Cfg) (raw : Nat), c.wf = true ∧ raw < 2 ^ c.addrWidth ∧
    ¬ (c.base ≤ raw ∧ raw < c.base + c.size) ∧ region c (xlate c raw) = .ibuf

/-! ### Lanes and buffer words -/

/-- R46: lane `i` of the merge is the data's where the strobe bit is set and the old value's where it is not; the empty
strobe keeps the value, the full strobe replaces it, and the example. -/
def Obligations.MergeTakesStrobedLanesAndKeepsTheOthers : Prop :=
  (∀ (old data : Word) (strb : Strobe) (i : Nat), i < 4 →
    lane i (merge old data strb) = if strb.getLsbD i = true then lane i data else lane i old) ∧
  (∀ old data : Word, merge old data 0#4 = old ∧ merge old data 15#4 = data) ∧
  merge 0xDEADBEEF#32 0x11223344#32 5#4 = 0xDE22BE44#32

/-- A strobed buffer word write, seen through byte reads and through a word read (R47, R48, R49).
The spec's own decision D13. -/
def Obligations.BufferWordWriteChangesItsStrobedBytes : Prop :=
  ∀ (m : Mem) (k0 : Nat) (data : Word) (strb : Strobe),
    (∀ i, i < 4 → (m.writeWord k0 data strb).read (k0 + i) =
      if strb.getLsbD i = true then lane i data else m.read (k0 + i)) ∧
    (∀ j, ¬ (k0 ≤ j ∧ j < k0 + 4) → (m.writeWord k0 data strb).read j = m.read j) ∧
    (∀ i, i < 4 → lane i (m.readWord k0) = m.read (k0 + i)) ∧
    (m.writeWord k0 data strb).readWord k0 = merge (m.readWord k0) data strb

/-! ### What each operation does, with its frame -/

/-- `WR_CTRL` whose merged value has `GO` = 1 (R110, R112): register 0 takes the value, `DW` goes to `DW_COMPUTE`,
`dev_wready` and `irq` are not assigned, and nothing else changes. The spec's own decisions D10, D11. -/
def Obligations.WrCtrlWithGoStartsTheComputeStep : Prop :=
  ∀ (low : LowBits) (data : Word) (strb : Strobe) (s : State), goBit (merge (s.readReg 0) data strb) = true →
    ∃ t, exec (.wrCtrl low data strb) s = .next t ∧
      t.readReg 0 = merge (s.readReg 0) data strb ∧ (∀ j : Fin 16, j ≠ 0 → t.readReg j = s.readReg j) ∧
      t.dw.state = .compute ∧ t.dw.ready = s.dw.ready ∧ t.irq = s.irq ∧
      s.SameBytes t ∧ s.SameReadProc t ∧ s.SameChannels t

/-- `WR_CTRL` whose merged value has `GO` = 0 (R110, R112): register 0 takes the value, `irq` is cleared, the write is
complete, and nothing else changes. The spec's own decisions D10, D11. -/
def Obligations.WrCtrlWithoutGoClearsTheInterrupt : Prop :=
  ∀ (low : LowBits) (data : Word) (strb : Strobe) (s : State), goBit (merge (s.readReg 0) data strb) = false →
    ∃ t, exec (.wrCtrl low data strb) s = .next t ∧
      t.readReg 0 = merge (s.readReg 0) data strb ∧ (∀ j : Fin 16, j ≠ 0 → t.readReg j = s.readReg j) ∧
      t.irq = false ∧ t.WriteDone ∧ s.SameBytes t ∧ s.SameReadProc t ∧ s.SameChannels t

/-- The control bit of a register-0 write is the data's bit 7 when lane 0 is strobed, else the stored bit 7 (R62, R112
corner case (c)). The spec's own decision D11. -/
def Obligations.ControlBitComesFromTheStrobedLane : Prop :=
  ∀ (old data : Word) (strb : Strobe),
    goBit (merge old data strb) = if strb.getLsbD 0 = true then data.getLsbD 7 else old.getLsbD 7

/-- R24 (and R113): registers 1 to 15 are plain storage. `WR_REG` gives one register the merged value, and `irq`, the
other registers, both buffers and all else are unchanged; a read then returns the value and changes neither registers,
buffers nor `irq`. -/
def Obligations.WrRegMergesIntoOneRegister : Prop :=
  ∀ (idx : Fin 16) (low : LowBits) (data : Word) (strb : Strobe) (s : State),
    ∃ t, exec (.wrReg idx low data strb) s = .next t ∧
      t.readReg idx = merge (s.readReg idx) data strb ∧ (∀ j : Fin 16, j ≠ idx → t.readReg j = s.readReg j) ∧
      t.irq = s.irq ∧ t.WriteDone ∧ s.SameBytes t ∧ s.SameReadProc t ∧ s.SameChannels t ∧
      ∀ low' : LowBits, ∃ u, exec (.rdReg idx low') t = .next u ∧
        u.ReadDone (merge (s.readReg idx) data strb) ∧ t.SameRegs u ∧ t.SameBytes u ∧ u.irq = s.irq

/-- `WR_IBUF` (R114): the enabled lanes of the word at byte index `wordByteIndex k`; every other byte of both buffers
reads as before. The spec's own decision D13. -/
def Obligations.WrIbufWritesTheStrobedLanes : Prop :=
  ∀ (k : Nat) (low : LowBits) (data : Word) (strb : Strobe) (s : State),
    ∃ t, exec (.wrIbuf k low data strb) s = .next t ∧
      (∀ i, i < 4 → t.ibuf.read (wordByteIndex k + i) =
        if strb.getLsbD i = true then lane i data else s.ibuf.read (wordByteIndex k + i)) ∧
      (∀ j, ¬ (wordByteIndex k ≤ j ∧ j < wordByteIndex k + 4) → t.ibuf.read j = s.ibuf.read j) ∧
      (∀ j, t.obuf.read j = s.obuf.read j) ∧
      s.SameRegs t ∧ t.irq = s.irq ∧ t.WriteDone ∧ s.SameReadProc t ∧ s.SameChannels t

/-- `WR_OBUF` and `WR_UNMAPPED` (R115, R116): complete like any write, change no storage and not `irq`.
The spec's own decision D14. -/
def Obligations.WrObufAndWrUnmappedChangeNoStorage : Prop :=
  ∀ (i : Instr) (s : State),
    ((∃ k low data strb, i = .wrObuf k low data strb) ∨ (∃ a data strb, i = .wrUnmapped a data strb)) →
    ∃ t, exec i s = .next t ∧
      s.SameRegs t ∧ s.SameBytes t ∧ t.irq = s.irq ∧ t.WriteDone ∧ s.SameReadProc t ∧ s.SameChannels t

/-- A partial-strobe write is not an error, and unstrobed byte lanes are preserved (R142): whatever a write addresses
and whatever its strobe, it completes, and every register lane and every InputBuffer byte whose strobe bit is 0 reads as
before. That byte `k` of the buffer belongs to lane `k mod 4` is the spec's own decision D13 (notes/assumptions/17.md);
that every OutputBuffer byte reads as before, under a set strobe bit too, is its decision D14
(notes/assumptions/16.md). -/
def Obligations.PartialStrobeWritesKeepTheOtherLanes : Prop :=
  ∀ (c : Cfg) (a : Nat) (data : Word) (strb : Strobe) (s : State),
    ∃ t, exec (decodeWrite c a data strb) s = .next t ∧
      (∀ (j : Fin 16) (i : Nat), i < 4 → strb.getLsbD i = false → lane i (t.readReg j) = lane i (s.readReg j)) ∧
      (∀ k, strb.getLsbD (k % 4) = false → t.ibuf.read k = s.ibuf.read k) ∧
      (∀ k, t.obuf.read k = s.obuf.read k)

/-- R70: every strobe is legal on every write; the empty one makes `WR_REG` and `WR_IBUF` storage no-ops, and on
`WR_CTRL` leaves register 0 as it is yet takes the control action its `GO` bit selects. -/
def Obligations.EveryStrobeIsLegalAndTheEmptyOneStoresNothing : Prop :=
  (∀ (i : Instr) (s : State), i.isWrite = true →
    ∃ t, exec i s = .next t ∧ (t.WriteDone ∨ t.dw.state = .compute)) ∧
  (∀ (i : Instr) (s : State),
    ((∃ idx low data, i = .wrReg idx low data 0#4) ∨ (∃ k low data, i = .wrIbuf k low data 0#4)) →
    ∃ t, exec i s = .next t ∧ s.SameRegs t ∧ s.SameBytes t ∧ t.irq = s.irq) ∧
  (∀ (low : LowBits) (data : Word) (s : State),
    ∃ t, exec (.wrCtrl low data 0#4) s = .next t ∧ s.SameRegs t ∧ s.SameBytes t ∧
      (goBit (s.readReg 0) = true → t.dw.state = .compute ∧ t.irq = s.irq) ∧
      (goBit (s.readReg 0) = false → t.WriteDone ∧ t.irq = false))

/-- `RD_REG` (R131): the result is the whole register; only the read procedure changes. -/
def Obligations.RdRegReturnsTheRegister : Prop :=
  ∀ (idx : Fin 16) (low : LowBits) (s : State),
    ∃ t, exec (.rdReg idx low) s = .next t ∧ t.ReadDone (s.readReg idx) ∧ t.draws = s.draws ∧
      s.SameRegs t ∧ s.SameBytes t ∧ t.irq = s.irq ∧ t.dw = s.dw ∧ s.SameChannels t

/-- `RD_OBUF` (R132): lane `i` of the result is the OutputBuffer byte at `wordByteIndex k + i`; only the read procedure
changes. The spec's own decision D13. -/
def Obligations.RdObufReturnsTheOutputWord : Prop :=
  ∀ (k : Nat) (low : LowBits) (s : State),
    ∃ t v, exec (.rdObuf k low) s = .next t ∧ t.ReadDone v ∧
      (∀ i, i < 4 → lane i v = s.obuf.read (wordByteIndex k + i)) ∧ t.draws = s.draws ∧
      s.SameRegs t ∧ s.SameBytes t ∧ t.irq = s.irq ∧ t.dw = s.dw ∧ s.SameChannels t

/-- `RD_IBUF` and `RD_UNMAPPED` (R133, R134; the spec's own decisions D14, D15): the read completes like any other,
with a draw as its result, and only the read procedure and the model's counter change. That the draw is
`Config.anyM` of the counter, a constant without a body, and that the counter moves on by one, is the model's choice
(notes/assumptions/8.md); nothing is known of the value. -/
def Obligations.RdIbufAndRdUnmappedReturnADraw : Prop :=
  ∀ (i : Instr) (s : State), ((∃ k low, i = .rdIbuf k low) ∨ (∃ a, i = .rdUnmapped a)) →
    ∃ t, exec i s = .next t ∧ t.ReadDone (Config.anyM s.draws) ∧ t.draws = s.draws + 1 ∧
      s.SameRegs t ∧ s.SameBytes t ∧ t.irq = s.irq ∧ t.dw = s.dw ∧ s.SameChannels t

/-- R137: no read assigns storage or the interrupt line, and a read changes only what the read procedure owns (the
counter of draws is the model's own, notes/assumptions/8.md). -/
def Obligations.ReadsHaveNoSideEffects : Prop :=
  ∀ (i : Instr) (s : State), i.isWrite = false →
    ∃ t, exec i s = .next t ∧ t = { s with dr := t.dr, draws := t.draws } ∧
      t.regs = s.regs ∧ t.ibuf = s.ibuf ∧ t.obuf = s.obuf ∧ t.irq = s.irq

/-! ### One step -/

/-- A step with a captured write and an idle `DW` performs the operation its bytes decode to (R4, R110, R111): `DW`'s
elements are those `exec` gives, the channels follow their own rules, and the read procedure stays as it is when nothing
is asked of it. The spec's own decisions D1, D10; the byte layout, the list of inputs and the counter of draws are the
model's (notes/assumptions/10.md, 2.md, 8.md). -/
def Obligations.StepPerformsTheCapturedWrite : Prop :=
  ∀ (s : State) (i : Instr), s.cfg.wf = true → s.AddressesOk → s.input.reset = false →
    s.dw.state = .idle → s.devWvalid = true →
    decode s.cfg ((Transaction.write s.aw.addr s.w.data s.w.strb).bytes s.cfg) = .ok (i, []) →
    i.wf s.cfg = true ∧
    ∃ d t, exec i s = .next d ∧ step s = .next t ∧
      t.regs = d.regs ∧ t.ibuf = d.ibuf ∧ t.obuf = d.obuf ∧ t.irq = d.irq ∧ t.dw = d.dw ∧
      t.aw = nextAw s s.input ∧ t.w = nextW s s.input ∧ t.b = nextB s s.input ∧
      t.ar = nextAr s s.input ∧ t.r = nextR s s.input ∧ t.cfg = s.cfg ∧ t.inputs = s.inputs.tail ∧
      (s.dr.state = .idle → s.ar.auxValid = false → t.dr = s.dr ∧ t.draws = s.draws)

/-- A step with a captured read and an idle `DR` performs the operation its bytes decode to (R4, R130).
The spec's own decisions D1, D7; the byte layout, the list of inputs and the counter of draws are the model's
(notes/assumptions/10.md, 2.md, 8.md). -/
def Obligations.StepPerformsTheCapturedRead : Prop :=
  ∀ (s : State) (i : Instr), s.cfg.wf = true → s.AddressesOk → s.input.reset = false →
    s.dr.state = .idle → s.ar.auxValid = true →
    decode s.cfg ((Transaction.read s.ar.addr).bytes s.cfg) = .ok (i, []) →
    i.wf s.cfg = true ∧
    ∃ d t, exec i s = .next d ∧ step s = .next t ∧ t.dr = d.dr ∧ t.draws = d.draws ∧
      t.aw = nextAw s s.input ∧ t.w = nextW s s.input ∧ t.b = nextB s s.input ∧
      t.ar = nextAr s s.input ∧ t.r = nextR s s.input ∧ t.cfg = s.cfg ∧ t.inputs = s.inputs.tail ∧
      (s.dw.state = .idle → s.devWvalid = false →
        t.regs = s.regs ∧ t.ibuf = s.ibuf ∧ t.obuf = s.obuf ∧ t.irq = s.irq ∧ t.dw = s.dw)

/-- A table word placed at the state after reset is performed by the very next step (the model's own placing,
notes/assumptions/3.md). -/
def Obligations.PlacedWordIsPerformedByTheNextStep : Prop :=
  ∀ (w : Nat) (i : Instr), decodeTableWord 40 w = some i →
    ∃ d t, exec i (State.reset.withFetchWord 40 w) = .next d ∧ step (State.reset.withFetchWord 40 w) = .next t ∧
      t.regs = d.regs ∧ t.ibuf = d.ibuf ∧ t.obuf = d.obuf ∧ t.irq = d.irq ∧ t.dw = d.dw ∧ t.dr = d.dr ∧
      t.draws = d.draws

/-- A step is never a fault, and is refused exactly when the configuration is not well formed (R3, R66, R140). -/
def Obligations.StepIsRefusedOnlyForIllFormedConfigurations : Prop :=
  ∀ s : State, (s.cfg.wf = true → ∃ t, step s = .next t) ∧
    (s.cfg.wf = false → step s = .refused .configNotWellFormed)

/-! ### The channels -/

/-- R81, R84 and R101: `READY_HIGH` lasts one tick, unconditionally; ready is 0 during it and 1 from the next, in each
of the three channels that have it. The spec's own decision D5. -/
def Obligations.ReadyHighLastsOneTick : Prop :=
  ∀ s : State, s.cfg.wf = true → s.Coherent → s.input.reset = false →
    ∃ t, step s = .next t ∧
      (s.aw.state = .readyHigh →
        s.aw.ready = false ∧ t.aw = { s.aw with ready := true, state := .awaitValid }) ∧
      (s.w.state = .readyHigh →
        s.w.ready = false ∧ t.w = { s.w with ready := true, state := .awaitValid }) ∧
      (s.ar.state = .readyHigh →
        s.ar.ready = false ∧ t.ar = { s.ar with ready := true, state := .awaitValid })

/-- `AW` in its three states (R81 to R83). The spec's own decision D5. -/
def Obligations.WriteAddressChannelFollowsItsRules : Prop :=
  ∀ s : State, s.cfg.wf = true → s.input.reset = false →
    ∃ t, step s = .next t ∧
      (s.aw.state = .readyHigh → t.aw = { s.aw with ready := true, state := .awaitValid }) ∧
      (s.aw.state = .awaitValid → s.input.awvalid = true →
        t.aw = { state := .awaitDeviceReady, ready := false, auxValid := true, addr := xlate s.cfg s.input.awaddr }) ∧
      (s.aw.state = .awaitValid → s.input.awvalid = false → t.aw = s.aw) ∧
      (s.aw.state = .awaitDeviceReady → s.dw.ready = true →
        t.aw = { s.aw with auxValid := false, state := .readyHigh }) ∧
      (s.aw.state = .awaitDeviceReady → s.dw.ready = false → t.aw = s.aw)

/-- `W` in its three states (R84 to R86): data and strobe are captured whole. The spec's own decision D5. -/
def Obligations.WriteDataChannelFollowsItsRules : Prop :=
  ∀ s : State, s.cfg.wf = true → s.input.reset = false →
    ∃ t, step s = .next t ∧
      (s.w.state = .readyHigh → t.w = { s.w with ready := true, state := .awaitValid }) ∧
      (s.w.state = .awaitValid → s.input.wvalid = true →
        t.w = { state := .awaitDeviceReady, ready := false, auxValid := true, data := s.input.wdata,
                strb := s.input.wstrb }) ∧
      (s.w.state = .awaitValid → s.input.wvalid = false → t.w = s.w) ∧
      (s.w.state = .awaitDeviceReady → s.dw.ready = true →
        t.w = { s.w with auxValid := false, state := .readyHigh }) ∧
      (s.w.state = .awaitDeviceReady → s.dw.ready = false → t.w = s.w)

/-- `AR` in its three states (R101 to R103). The spec's own decision D5. -/
def Obligations.ReadAddressChannelFollowsItsRules : Prop :=
  ∀ s : State, s.cfg.wf = true → s.input.reset = false →
    ∃ t, step s = .next t ∧
      (s.ar.state = .readyHigh → t.ar = { s.ar with ready := true, state := .awaitValid }) ∧
      (s.ar.state = .awaitValid → s.input.arvalid = true →
        t.ar = { state := .awaitDeviceReady, ready := false, auxValid := true, addr := xlate s.cfg s.input.araddr }) ∧
      (s.ar.state = .awaitValid → s.input.arvalid = false → t.ar = s.ar) ∧
      (s.ar.state = .awaitDeviceReady → s.dr.ready = true →
        t.ar = { s.ar with auxValid := false, state := .readyHigh }) ∧
      (s.ar.state = .awaitDeviceReady → s.dr.ready = false → t.ar = s.ar)

/-- `B` in its two states (R90 to R92): four sticky flags, then one response, held until accepted.
The spec's own decision D8. -/
def Obligations.ResponseChannelFollowsItsRules : Prop :=
  ∀ s : State, s.cfg.wf = true → s.input.reset = false →
    ∃ t, step s = .next t ∧
      (s.b.state = .collect → s.b.allObserved = false →
        t.b.state = .collect ∧ t.b.valid = s.b.valid ∧
        t.b.sAwv = (s.b.sAwv || s.input.awvalid) ∧ t.b.sAwr = (s.b.sAwr || s.aw.ready) ∧
        t.b.sWv = (s.b.sWv || s.input.wvalid) ∧ t.b.sWr = (s.b.sWr || s.w.ready)) ∧
      (s.b.state = .collect → s.b.allObserved = true → t.b = { s.b with valid := true, state := .respond }) ∧
      (s.b.state = .respond → s.input.bready = false → t.b = s.b) ∧
      (s.b.state = .respond → s.input.bready = true →
        t.b = { state := .collect, valid := false, sAwv := false, sAwr := false, sWv := false, sWr := false })

/-- `R` in its three states (R105 to R107). The spec's own decision D9. -/
def Obligations.ReadDataChannelFollowsItsRules : Prop :=
  ∀ s : State, s.cfg.wf = true → s.input.reset = false →
    ∃ t, step s = .next t ∧
      (s.r.state = .idle → s.dr.ready = true → t.r = { state := .validate, valid := true, data := s.dr.rdata }) ∧
      (s.r.state = .idle → s.dr.ready = false → t.r = s.r) ∧
      (s.r.state = .validate → s.input.rready = true → t.r = { s.r with valid := false, state := .drain }) ∧
      (s.r.state = .validate → s.input.rready = false → t.r = s.r) ∧
      (s.r.state = .drain → s.dr.ready = false → t.r = { s.r with state := .idle }) ∧
      (s.r.state = .drain → s.dr.ready = true → t.r = s.r)

/-- The device's readies are held until their request falls, then fall (R119, R135). The spec's own decision D7. -/
def Obligations.DeviceReadiesFallAfterTheirRequests : Prop :=
  ∀ s : State, s.cfg.wf = true → s.input.reset = false →
    ∃ t, step s = .next t ∧
      (s.dw.state = .ack → s.devWvalid = true → t.dw = s.dw) ∧
      (s.dw.state = .ack → s.devWvalid = false → t.dw = { state := .idle, ready := false }) ∧
      (s.dr.state = .ack → s.ar.auxValid = true → t.dr = s.dr) ∧
      (s.dr.state = .ack → s.ar.auxValid = false → t.dr = { s.dr with state := .idle, ready := false })

/-- R117 and R118: the compute step's one tick copies the first `min(RFILE_SIZE, WFILE_SIZE)` bytes offset to offset,
raises `irq` and completes, all visible in the next tick; nothing else of the device changes, and the valid is still 1
when its flags agree with the states. The spec's own decisions D10, D17. -/
def Obligations.ComputeStepCopiesTheBufferAndRaisesTheInterrupt : Prop :=
  ∀ s : State, s.cfg.wf = true → s.input.reset = false → s.dw.state = .compute →
    ∃ t, step s = .next t ∧
      (∀ k, t.obuf.read k =
        if k < min s.cfg.rfileSize s.cfg.wfileSize then s.ibuf.read k else s.obuf.read k) ∧
      t.irq = true ∧ t.WriteDone ∧ (∀ k, t.ibuf.read k = s.ibuf.read k) ∧ s.SameRegs t ∧
      (s.Inv → t.devWvalid = true)

/-! ### Reset -/

/-- R32: what a reset tick leaves, whatever the state and the other inputs were. The spec's own decision D16. -/
def Obligations.ResetTickForcesTheInitialStates : Prop :=
  ∀ s : State, s.cfg.wf = true → s.input.reset = true →
    ∃ t, step s = .next t ∧
      t.aw.state = .readyHigh ∧ t.w.state = .readyHigh ∧ t.ar.state = .readyHigh ∧ t.b.state = .collect ∧
      t.r.state = .idle ∧ t.dw.state = .idle ∧ t.dr.state = .idle ∧
      t.aw.auxValid = false ∧ t.w.auxValid = false ∧ t.ar.auxValid = false ∧
      t.b.sAwv = false ∧ t.b.sAwr = false ∧ t.b.sWv = false ∧ t.b.sWr = false ∧
      t.dw.ready = false ∧ t.dr.ready = false ∧ t.irq = false

/-- R33: the handshake outputs are 0 after a reset tick, and the readies rise two ticks after the last one.
The spec's own decision D16. -/
def Obligations.HandshakeOutputsAreZeroAfterReset : Prop :=
  ∀ s : State, s.cfg.wf = true → s.input.reset = true →
    ∃ t, step s = .next t ∧
      t.aw.ready = false ∧ t.w.ready = false ∧ t.ar.ready = false ∧ t.b.valid = false ∧ t.r.valid = false ∧
      (t.input.reset = false →
        ∃ u, step t = .next u ∧ u.aw.ready = true ∧ u.w.ready = true ∧ u.ar.ready = true)

/-- Each process's next elements depend only on its own elements and on what the table of R28 lists as read by it
(for `DR`, also on the draw it is given, R4). The spec's own decision D1. -/
def Obligations.EachProcessReadsOnlyWhatIsListed : Prop :=
  ∀ s t s' t' : State, s.cfg = t.cfg → s.input.reset = false → t.input.reset = false →
    step s = .next s' → step t = .next t' →
    (s.aw = t.aw → s.input.awvalid = t.input.awvalid → s.input.awaddr = t.input.awaddr → s.dw.ready = t.dw.ready →
      s'.aw = t'.aw) ∧
    (s.w = t.w → s.input.wvalid = t.input.wvalid → s.input.wdata = t.input.wdata → s.input.wstrb = t.input.wstrb →
      s.dw.ready = t.dw.ready → s'.w = t'.w) ∧
    (s.b = t.b → s.input.awvalid = t.input.awvalid → s.aw.ready = t.aw.ready → s.input.wvalid = t.input.wvalid →
      s.w.ready = t.w.ready → s.input.bready = t.input.bready → s'.b = t'.b) ∧
    (s.ar = t.ar → s.input.arvalid = t.input.arvalid → s.input.araddr = t.input.araddr → s.dr.ready = t.dr.ready →
      s'.ar = t'.ar) ∧
    (s.r = t.r → s.dr.ready = t.dr.ready → s.dr.rdata = t.dr.rdata → s.input.rready = t.input.rready →
      s'.r = t'.r) ∧
    (s.dw = t.dw → s.regs = t.regs → s.ibuf = t.ibuf → s.obuf = t.obuf → s.irq = t.irq →
      s.aw.auxValid = t.aw.auxValid → s.w.auxValid = t.w.auxValid → s.aw.addr = t.aw.addr → s.w.data = t.w.data →
      s.w.strb = t.w.strb →
      s'.dw = t'.dw ∧ s'.regs = t'.regs ∧ s'.ibuf = t'.ibuf ∧ s'.obuf = t'.obuf ∧ s'.irq = t'.irq) ∧
    (s.dr = t.dr → s.draws = t.draws → s.ar.auxValid = t.ar.auxValid → s.ar.addr = t.ar.addr → s.regs = t.regs →
      s.obuf = t.obuf → s'.dr = t'.dr)

/-- R53: there is no protection. The protection bits influence nothing, and no access is refused or faults. -/
def Obligations.ProtectionBitsInfluenceNothing : Prop :=
  (∀ (s : State) (i : Input) (rest : List Input) (p q : Prot),
    step { s with inputs := i :: rest } = step { s with inputs := { i with awprot := p, arprot := q } :: rest }) ∧
  (∀ (i : Instr) (s : State), ∃ t, exec i s = .next t) ∧
  (∀ s : State, s.cfg.wf = true → ∃ t, step s = .next t)

/-! ### Invariants -/

/-- The state after reset meets the invariant and both response invariants. The registers' and buffers' values in it are
the model's choice (notes/assumptions/4.md, 5.md, 6.md); the invariant reads them only for their form. -/
def Obligations.ResetStateMeetsTheInvariants : Prop :=
  State.reset.Inv ∧ State.reset.ResponseOk ∧ State.reset.ReadOk

/-- Every step keeps the invariant, under any inputs: flags agree with states (R29 (c) to (f)), the buffers keep their
canonical form and size, captured addresses have `N` bits, and a device procedure that is not idle still has its request
or has just been released (R119, R135). -/
def Obligations.EveryStepKeepsTheInvariant : Prop :=
  ∀ s t : State, s.Inv → step s = .next t → t.Inv

/-- R29 (b): once InterruptRequest agrees with the control bit it goes on agreeing until a reset tick, and a
register-0 write makes it agree. -/
def Obligations.InterruptFollowsTheControlBit : Prop :=
  ∀ s t : State, s.TriggerOk → s.input.reset = false → step s = .next t →
    (s.IrqAgrees → t.IrqAgrees) ∧
    (s.dw.state = .idle → s.devWvalid = true → s.aw.addr < bpw → t.IrqAgrees)

/-- Nothing but a reset tick, the end of a compute step and a register-0 write with `GO` = 0 changes `irq` (R147). -/
def Obligations.OnlyControlWritesAndResetChangeTheInterrupt : Prop :=
  ∀ s t : State, step s = .next t → t.irq ≠ s.irq →
    (s.input.reset = true ∧ t.irq = false) ∨
    (s.input.reset = false ∧ s.dw.state = .compute ∧ t.irq = true) ∨
    (s.input.reset = false ∧ s.dw.state = .idle ∧ s.devWvalid = true ∧ s.aw.addr < bpw ∧
      goBit (merge (s.readReg 0) s.w.data s.w.strb) = false ∧ t.irq = false)

/-- Outside reset, a register changes only by a performed write that addresses it, an InputBuffer byte only by a
performed write to its word, an OutputBuffer byte only by the compute step (R22, R25, R26, R28, R35, R36).
The spec's own decision D14. -/
def Obligations.StorageChangesOnlyByItsOwnOperations : Prop :=
  ∀ s t : State, s.input.reset = false → step s = .next t →
    (∀ j : Fin 16, t.readReg j ≠ s.readReg j →
      s.dw.state = .idle ∧ s.devWvalid = true ∧ s.aw.addr < regSpan ∧ j = regIndex s.aw.addr ∧
      t.readReg j = merge (s.readReg j) s.w.data s.w.strb) ∧
    (∀ k, t.ibuf.read k ≠ s.ibuf.read k →
      s.dw.state = .idle ∧ s.devWvalid = true ∧ region s.cfg s.aw.addr = .ibuf ∧
      wordBase s.aw.addr ≤ s.cfg.rfileOffset + k ∧ s.cfg.rfileOffset + k < wordBase s.aw.addr + bpw) ∧
    (∀ k, t.obuf.read k ≠ s.obuf.read k →
      s.dw.state = .compute ∧ k < min s.cfg.rfileSize s.cfg.wfileSize)

/-- Every change of a process state is a row of R124's table. The spec's own decisions D5, D7, D8, D9, D10. -/
def Obligations.EveryControlTransferIsATableRow : Prop :=
  ∀ s t : State, s.input.reset = false → step s = .next t →
    (t.aw.state ≠ s.aw.state →
      (s.aw.state = .readyHigh ∧ t.aw.state = .awaitValid) ∨
      (s.aw.state = .awaitValid ∧ s.input.awvalid = true ∧ t.aw.state = .awaitDeviceReady) ∨
      (s.aw.state = .awaitDeviceReady ∧ s.dw.ready = true ∧ t.aw.state = .readyHigh)) ∧
    (t.w.state ≠ s.w.state →
      (s.w.state = .readyHigh ∧ t.w.state = .awaitValid) ∨
      (s.w.state = .awaitValid ∧ s.input.wvalid = true ∧ t.w.state = .awaitDeviceReady) ∨
      (s.w.state = .awaitDeviceReady ∧ s.dw.ready = true ∧ t.w.state = .readyHigh)) ∧
    (t.b.state ≠ s.b.state →
      (s.b.state = .collect ∧ s.b.allObserved = true ∧ t.b.state = .respond) ∨
      (s.b.state = .respond ∧ s.input.bready = true ∧ t.b.state = .collect)) ∧
    (t.ar.state ≠ s.ar.state →
      (s.ar.state = .readyHigh ∧ t.ar.state = .awaitValid) ∨
      (s.ar.state = .awaitValid ∧ s.input.arvalid = true ∧ t.ar.state = .awaitDeviceReady) ∨
      (s.ar.state = .awaitDeviceReady ∧ s.dr.ready = true ∧ t.ar.state = .readyHigh)) ∧
    (t.r.state ≠ s.r.state →
      (s.r.state = .idle ∧ s.dr.ready = true ∧ t.r.state = .validate) ∨
      (s.r.state = .validate ∧ s.input.rready = true ∧ t.r.state = .drain) ∨
      (s.r.state = .drain ∧ s.dr.ready = false ∧ t.r.state = .idle)) ∧
    (t.dw.state ≠ s.dw.state →
      (s.dw.state = .idle ∧ s.devWvalid = true ∧ s.aw.addr < bpw ∧
        goBit (merge (s.readReg 0) s.w.data s.w.strb) = true ∧ t.dw.state = .compute) ∨
      (s.dw.state = .idle ∧ s.devWvalid = true ∧
        ¬ (s.aw.addr < bpw ∧ goBit (merge (s.readReg 0) s.w.data s.w.strb) = true) ∧ t.dw.state = .ack) ∨
      (s.dw.state = .compute ∧ t.dw.state = .ack) ∨
      (s.dw.state = .ack ∧ s.devWvalid = false ∧ t.dw.state = .idle)) ∧
    (t.dr.state ≠ s.dr.state →
      (s.dr.state = .idle ∧ s.ar.auxValid = true ∧ t.dr.state = .ack) ∨
      (s.dr.state = .ack ∧ s.ar.auxValid = false ∧ t.dr.state = .idle))

/-- One pulse, performed once: whenever a device-facing valid rises, its procedure is idle (R119, R54).
The spec's own decision D7. -/
def Obligations.DeviceIsIdleWhenARequestBegins : Prop :=
  ∀ s t : State, s.Inv → step s = .next t →
    (s.devWvalid = false → t.devWvalid = true → t.dw.state = .idle) ∧
    (s.ar.auxValid = false → t.ar.auxValid = true → t.dr.state = .idle)

/-! ### Responses under a conformant master -/

/-- What R93's argument keeps, every step keeps, under a master that meets R170 and R171.
The spec's own decisions D8, D21. -/
def Obligations.ConformantStepsKeepTheResponseInvariant : Prop :=
  ∀ s t : State, s.Inv → s.ResponseOk → s.MasterHolds → s.OneWrite → step s = .next t → t.ResponseOk

/-- P5 (R93): the write response rises only when both handshakes of the write have been completed in earlier ticks.
The spec's own decision D8. -/
def Obligations.ResponseRisesOnlyAfterBothHandshakes : Prop :=
  ∀ s t : State, s.Inv → s.ResponseOk → step s = .next t → s.b.valid = false → t.b.valid = true →
    s.aw.auxValid = true ∧ s.w.auxValid = true

/-- A write whose two handshakes have occurred is performed, and its response is valid in the next tick (R55, R179).
The spec's own decisions D7, D8, D10. -/
def Obligations.EveryCapturedWriteIsPerformedAndAnswered : Prop :=
  ∀ s : State, s.Inv → s.ResponseOk → s.input.reset = false → s.devWvalid = true → s.dw.state = .idle →
    ∃ d t, exec s.writeOperation s = .next d ∧ step s = .next t ∧
      t.regs = d.regs ∧ t.ibuf = d.ibuf ∧ t.irq = d.irq ∧ t.dw = d.dw ∧ t.dw.state ≠ .idle ∧ t.b.valid = true

/-- What keeps a read's data from being missed, every step keeps, under a master that meets R172.
The spec's own decisions D9, D21. -/
def Obligations.ConformantStepsKeepTheReadInvariant : Prop :=
  ∀ s t : State, s.Inv → s.ReadOk → s.OneRead → step s = .next t → t.ReadOk

/-- A read whose address handshake has occurred is performed, and two ticks later its result is presented (R108,
R179). The spec's own decision D9. -/
def Obligations.EveryCapturedReadIsPresentedTwoTicksLater : Prop :=
  ∀ s : State, s.Inv → s.ReadOk → s.input.reset = false → s.nextInput.reset = false →
    s.ar.auxValid = true → s.dr.state = .idle →
    ∃ d t u, exec s.readOperation s = .next d ∧ step s = .next t ∧ step t = .next u ∧
      u.r.valid = true ∧ u.r.data = d.dr.rdata

/-- P4 (R87): after a capture the channel's ready is 0 in the next two ticks, and in the third as well in states of the
invariant; a reset in the third tick lowers ready too, and is not excluded. The source's bound is two ticks; the third
rests on the spec's own decisions D5, D7, D10. -/
def Obligations.ReadyStaysLowAfterACapture : Prop :=
  ∀ s : State, s.cfg.wf = true → s.Coherent → s.input.reset = false → s.nextInput.reset = false →
    ∃ t u v, step s = .next t ∧ step t = .next u ∧ step u = .next v ∧
      (s.awHandshake = true → t.aw.ready = false ∧ u.aw.ready = false ∧ (s.Inv → v.aw.ready = false)) ∧
      (s.wHandshake = true → t.w.ready = false ∧ u.w.ready = false ∧ (s.Inv → v.w.ready = false)) ∧
      (s.arHandshake = true → t.ar.ready = false ∧ u.ar.ready = false ∧ (s.Inv → v.ar.ready = false))

/-- R144: no waiting state (the list of R125) has a timeout. While what a process waits for does not come, for any
number of ticks, it stays where it is; `B` in `B_COLLECT` keeps collecting. -/
def Obligations.WaitingStatesHaveNoTimeout : Prop :=
  ∀ (s : State) (n : Nat), s.cfg.wf = true → Throughout n s (fun u => u.input.reset = false) →
    ∃ t, Host.Core.run Sys2Proof.core n s = .next t ∧
      (s.aw.state = .awaitValid → Throughout n s (fun u => u.input.awvalid = false) → t.aw = s.aw) ∧
      (s.aw.state = .awaitDeviceReady → Throughout n s (fun u => u.dw.ready = false) → t.aw = s.aw) ∧
      (s.w.state = .awaitValid → Throughout n s (fun u => u.input.wvalid = false) → t.w = s.w) ∧
      (s.w.state = .awaitDeviceReady → Throughout n s (fun u => u.dw.ready = false) → t.w = s.w) ∧
      (s.ar.state = .awaitValid → Throughout n s (fun u => u.input.arvalid = false) → t.ar = s.ar) ∧
      (s.ar.state = .awaitDeviceReady → Throughout n s (fun u => u.dr.ready = false) → t.ar = s.ar) ∧
      (s.b.state = .collect → Throughout n s (fun u => u.b.allObserved = false) →
        t.b.state = .collect ∧ t.b.valid = s.b.valid) ∧
      (s.b.state = .respond → Throughout n s (fun u => u.input.bready = false) → t.b = s.b) ∧
      (s.r.state = .idle → Throughout n s (fun u => u.dr.ready = false) → t.r = s.r) ∧
      (s.r.state = .validate → Throughout n s (fun u => u.input.rready = false) → t.r = s.r) ∧
      (s.r.state = .drain → Throughout n s (fun u => u.dr.ready = true) → t.r = s.r) ∧
      (s.dw.state = .idle → Throughout n s (fun u => u.devWvalid = false) → t.dw = s.dw) ∧
      (s.dw.state = .ack → Throughout n s (fun u => u.devWvalid = true) → t.dw = s.dw) ∧
      (s.dr.state = .idle → Throughout n s (fun u => u.ar.auxValid = false) → t.dr = s.dr) ∧
      (s.dr.state = .ack → Throughout n s (fun u => u.ar.auxValid = true) → t.dr = s.dr)

/-! ### Several ticks -/

/-- P2 (R121, R123): a triggering write changes register 0 one tick after its perform tick, and `irq` and the
OutputBuffer two ticks after it. The spec's own decision D10. -/
def Obligations.TriggerRaisesTheInterruptTwoTicksLater : Prop :=
  ∀ s : State, s.cfg.wf = true → s.input.reset = false → s.nextInput.reset = false →
    s.dw.state = .idle → s.devWvalid = true → s.aw.addr < bpw →
    goBit (merge (s.readReg 0) s.w.data s.w.strb) = true →
    ∃ t u, step s = .next t ∧ step t = .next u ∧
      t.readReg 0 = merge (s.readReg 0) s.w.data s.w.strb ∧ t.irq = s.irq ∧
      (∀ k, t.obuf.read k = s.obuf.read k) ∧ u.irq = true ∧
      (∀ k, k < min s.cfg.rfileSize s.cfg.wfileSize → u.obuf.read k = s.ibuf.read k)

/-- P6 (R136, R55): from a quiescent bridge, a register write followed by a read whose address is presented in the first
tick of the write's response returns the value written (merged under the strobe), `rvalid` 1 after five steps. The tick
counts are the spec's own decisions D5, D7, D8, D9, D10 (R180), quiescence D29 and the ignored low address bits D13
(notes/assumptions/15.md, 17.md). The two ticks after the three listed inputs have zero inputs, the model's choice
(notes/assumptions/2.md). -/
def Obligations.WrittenRegisterReadsBack : Prop :=
  ∀ (s : State) (raw : Nat) (idx : Fin 16) (low : LowBits) (v : Word) (strb : Strobe),
    s.cfg.wf = true → s.Quiescent → xlate s.cfg raw = bpw * idx.val + low.toNat →
    s.inputs = [Input.presentWrite raw v strb, Input.zero, (Input.presentRead raw).acceptingResponse] →
    ∃ t, Host.Core.run Sys2Proof.core 5 s = .next t ∧ t.r.valid = true ∧
      t.r.data = merge (s.readReg idx) v strb ∧ (strb = 15#4 → t.r.data = v)

/-- P3 (R122): from a quiescent bridge, a byte written at InputBuffer offset `k`, a trigger, and a read of OutputBuffer
offset `k` yield that byte, for every `k` below both sizes, `rvalid` 1 after nine steps. The trace and the tick count
are the spec's own decisions D5, D7, D8, D9, D10 (R180), quiescence D29, the control bit D11, the lane of a byte D13
and the extent of the copy D17 (notes/assumptions/15.md, 17.md). The two ticks after the seven listed inputs have zero
inputs, the model's choice (notes/assumptions/2.md). -/
def Obligations.WrittenByteCopiesThroughToTheOutput : Prop :=
  ∀ (s : State) (rawIn rawCtrl rawOut k : Nat) (v : Byte) (go : Word),
    s.cfg.wf = true → s.Quiescent → k < min s.cfg.rfileSize s.cfg.wfileSize →
    xlate s.cfg rawIn = s.cfg.rfileOffset + k → xlate s.cfg rawCtrl < bpw →
    xlate s.cfg rawOut = s.cfg.wfileOffset + k → goBit go = true →
    s.inputs =
      [Input.presentWrite rawIn (v.setWidth 32 <<< (8 * (k % bpw))) (1#4 <<< (k % bpw)), Input.zero,
       Input.zero.acceptingResponse, Input.zero, Input.presentWrite rawCtrl go 15#4, Input.zero,
       (Input.presentRead rawOut).acceptingResponse] →
    ∃ t, Host.Core.run Sys2Proof.core 9 s = .next t ∧ t.r.valid = true ∧ lane (k % bpw) t.r.data = v

/-- A read and a write of one register performed in one tick: the read returns the old value and the register takes the
new one (R56). The spec's own decision D24. -/
def Obligations.SameTickReadSeesTheOldValue : Prop :=
  ∀ s : State, s.cfg.wf = true → s.input.reset = false → s.dw.state = .idle → s.devWvalid = true →
    s.dr.state = .idle → s.ar.auxValid = true → s.aw.addr < regSpan → s.ar.addr < regSpan →
    regIndex s.ar.addr = regIndex s.aw.addr →
    ∃ t, step s = .next t ∧ t.dr.rdata = s.readReg (regIndex s.aw.addr) ∧
      t.readReg (regIndex s.aw.addr) = merge (s.readReg (regIndex s.aw.addr)) s.w.data s.w.strb

/-- A quiescent bridge with nothing coming stays exactly as it is (R178). The spec's own decision D29; that an empty list
stands for zero inputs is the model's choice (notes/assumptions/2.md). -/
def Obligations.QuiescentBridgeStaysAsItIs : Prop :=
  ∀ s : State, s.cfg.wf = true → s.Quiescent → s.inputs = [] → step s = .next s

/-- From any state, a reset tick and two silent ticks after it end in a quiescent bridge (R160, R161, R178), with `irq`
0 and with the registers and buffers the reset tick left (R35, R36: stable until written). The spec's own decisions D16,
D29; that a list of inputs that ends stands for silent ticks is the model's choice (notes/assumptions/2.md), and what the
reset tick leaves is a free value (notes/assumptions/7.md), of which nothing is said here but that it stays. -/
def Obligations.ResetSettlesIntoQuiescence : Prop :=
  ∀ s : State, s.cfg.wf = true → s.input.reset = true → (s.inputAt 1).Silent → (s.inputAt 2).Silent →
    ∃ t u v, step s = .next t ∧ step t = .next u ∧ step u = .next v ∧
      v.Quiescent ∧ v.irq = false ∧ v.regs = t.regs ∧ v.ibuf = t.ibuf ∧ v.obuf = t.obuf

/-- Both response payloads are the one status, OKAY, in every state (R38, R65); that its encoding is `0b00` the spec
marks as general knowledge, not the source's (92_eei_decisions.md D4). -/
def Obligations.ResponsesAreAlwaysOkay : Prop :=
  ∀ s : State, s.outputs.bresp = 0#2 ∧ s.outputs.rresp = 0#2
end

