-- ==== Sys2Proof/Laws/Operands.lean ====
section
/-! SUPPORT. What a well-formed configuration gives, and the laws of lanes, the merge, the region decoder and the parts
of an address. -/

namespace Sys2Proof

open Config

/-! ### A well-formed configuration (R3), unpacked -/

/-- R3, as the conjunction of its items. -/
theorem Cfg.wf_iff (c : Cfg) :
    c.wf = true ↔
      c.widthOk = true ∧ c.addressOk = true ∧ c.alignOk = true ∧ c.disjointOk = true ∧ c.insideOk = true ∧
        c.policyOk = true := by
  simp [Cfg.wf, and_assoc]

/-- R3 (b): what the address width gives. -/
theorem Cfg.wf_address {c : Cfg} (h : c.wf = true) :
    1 ≤ c.addrWidth ∧ c.size ≤ 2 ^ c.addrWidth ∧ c.base < 2 ^ c.addrWidth := by
  have := ((Cfg.wf_iff c).mp h).2.1
  simpa [Cfg.addressOk, and_assoc] using this

/-- R3 (c): offsets and sizes in whole words, sizes not 0. -/
theorem Cfg.wf_align {c : Cfg} (h : c.wf = true) :
    c.rfileOffset % 4 = 0 ∧ c.rfileSize % 4 = 0 ∧ c.wfileOffset % 4 = 0 ∧ c.wfileSize % 4 = 0 ∧
      0 < c.rfileSize ∧ 0 < c.wfileSize := by
  have := ((Cfg.wf_iff c).mp h).2.2.1
  simpa [Cfg.alignOk, and_assoc] using this

/-- R3 (d) with the sizes not 0: both buffers lie above the registers and apart. -/
theorem Cfg.wf_disjoint {c : Cfg} (h : c.wf = true) :
    64 ≤ c.rfileOffset ∧ 64 ≤ c.wfileOffset ∧
      (c.rfileOffset + c.rfileSize ≤ c.wfileOffset ∨ c.wfileOffset + c.wfileSize ≤ c.rfileOffset) := by
  have hd := ((Cfg.wf_iff c).mp h).2.2.2.1
  have ha := Cfg.wf_align h
  simp only [Cfg.disjointOk, disjointRanges, Bool.and_eq_true, Bool.or_eq_true, decide_eq_true_eq, regSpan] at hd
  omega

/-- R3 (e): the three regions lie inside `[0, SIZE)`. -/
theorem Cfg.wf_inside {c : Cfg} (h : c.wf = true) :
    64 ≤ c.size ∧ c.rfileOffset + c.rfileSize ≤ c.size ∧ c.wfileOffset + c.wfileSize ≤ c.size := by
  have := ((Cfg.wf_iff c).mp h).2.2.2.2.1
  simpa [Cfg.insideOk, and_assoc] using this

/-- R3 (f): the XOR policy's conditions. -/
theorem Cfg.wf_policy {c : Cfg} (h : c.wf = true) (hx : c.size ≤ c.base) :
    c.size = 2 ^ Nat.log2 c.size ∧ c.base % c.size = 0 := by
  have := ((Cfg.wf_iff c).mp h).2.2.2.2.2
  simp only [Cfg.policyOk, Bool.or_eq_true, Bool.and_eq_true, decide_eq_true_eq] at this
  rcases this with h | h
  · omega
  · exact h

/-! ### The region decoder (R44) -/

theorem region_eq_reg {c : Cfg} {a : Nat} : region c a = .reg ↔ a < 64 := by
  by_cases h1 : a < 64
  · simp [region, regSpan, h1]
  · by_cases h2 : c.rfileOffset ≤ a ∧ a < c.rfileOffset + c.rfileSize
    · simp [region, regSpan, h1, h2]
    · by_cases h3 : c.wfileOffset ≤ a ∧ a < c.wfileOffset + c.wfileSize
      · simp [region, regSpan, h1, if_neg h2, h3]
      · simp [region, regSpan, h1, if_neg h2, if_neg h3]

theorem region_eq_ibuf {c : Cfg} (h : c.wf = true) {a : Nat} :
    region c a = .ibuf ↔ c.rfileOffset ≤ a ∧ a < c.rfileOffset + c.rfileSize := by
  have hd := Cfg.wf_disjoint h
  by_cases h1 : a < 64
  · have h2 : ¬ (c.rfileOffset ≤ a ∧ a < c.rfileOffset + c.rfileSize) := by omega
    simp only [region, regSpan, h1, if_true, reduceCtorEq, h2]
  · by_cases h2 : c.rfileOffset ≤ a ∧ a < c.rfileOffset + c.rfileSize
    · simp [region, regSpan, h1, h2]
    · by_cases h3 : c.wfileOffset ≤ a ∧ a < c.wfileOffset + c.wfileSize
      · simp [region, regSpan, h1, h2, h3]
      · simpa only [region, regSpan, h1, if_false, if_neg h2, if_neg h3, reduceCtorEq, false_iff] using h2

theorem region_eq_obuf {c : Cfg} (h : c.wf = true) {a : Nat} :
    region c a = .obuf ↔ c.wfileOffset ≤ a ∧ a < c.wfileOffset + c.wfileSize := by
  have hd := Cfg.wf_disjoint h
  by_cases h1 : a < 64
  · have h2 : ¬ (c.wfileOffset ≤ a ∧ a < c.wfileOffset + c.wfileSize) := by omega
    simp only [region, regSpan, h1, if_true, reduceCtorEq, h2]
  · by_cases h2 : c.rfileOffset ≤ a ∧ a < c.rfileOffset + c.rfileSize
    · have h3 : ¬ (c.wfileOffset ≤ a ∧ a < c.wfileOffset + c.wfileSize) := by omega
      simp only [region, regSpan, h1, if_false, if_pos h2, reduceCtorEq, h3]
    · by_cases h3 : c.wfileOffset ≤ a ∧ a < c.wfileOffset + c.wfileSize
      · simp [region, regSpan, h1, if_neg h2, h3]
      · simpa only [region, regSpan, h1, if_false, if_neg h2, if_neg h3, reduceCtorEq, false_iff] using h3

theorem region_eq_unmapped {c : Cfg} {a : Nat} :
    region c a = .unmapped ↔ ¬ a < 64 ∧ ¬ (c.rfileOffset ≤ a ∧ a < c.rfileOffset + c.rfileSize) ∧
      ¬ (c.wfileOffset ≤ a ∧ a < c.wfileOffset + c.wfileSize) := by
  by_cases h1 : a < 64
  · simp [region, regSpan, h1]
  · by_cases h2 : c.rfileOffset ≤ a ∧ a < c.rfileOffset + c.rfileSize
    · simp [region, regSpan, h1, h2]
    · by_cases h3 : c.wfileOffset ≤ a ∧ a < c.wfileOffset + c.wfileSize
      · simp only [region, regSpan, h1, if_false, if_neg h2, h3, if_true, reduceCtorEq, and_self, not_true, and_false]
      · simp only [region, regSpan, h1, if_false, h2, h3, not_false_eq_true, and_self]

/-- The unmapped check of a well-formed operation is the decoder's own. -/
theorem Cfg.unmappedOk_iff {c : Cfg} {a : Nat} :
    c.unmappedOk a = true ↔ a < 2 ^ c.addrWidth ∧ region c a = .unmapped := by
  rw [region_eq_unmapped]
  simp only [Cfg.unmappedOk, regSpan, Bool.and_eq_true, Bool.not_eq_true', Bool.and_eq_false_iff,
    decide_eq_true_eq, decide_eq_false_iff_not]
  tauto

/-! ### The parts of an address -/

theorem regIndex_val {a : Nat} (h : a < 64) : (regIndex a).val = a / 4 := by
  simp only [regIndex, lb, Nat.shiftRight_eq_div_pow, Fin.ofNat]
  omega

@[simp] theorem lowBits_toNat (a : Nat) : (lowBits a).toNat = a % 4 := by
  simp [lowBits]

/-- The word base is a multiple of `BPW`, at or below the address, within one word of it. -/
theorem wordBase_spec (a : Nat) : wordBase a % 4 = 0 ∧ wordBase a ≤ a ∧ a = wordBase a + a % 4 := by
  simp only [wordBase, bpw]
  refine ⟨?_, ?_, ?_⟩ <;> omega

theorem wordIndex_spec {offset a : Nat} (ho : offset % 4 = 0) (ha : offset ≤ a) :
    offset + 4 * wordIndex offset a + a % 4 = a := by
  simp only [wordIndex, wordBase, bpw]
  omega

/-! ### Lanes -/

/-- The bits of a word built from its lanes. -/
theorem getLsbD_wordOfLanes (b0 b1 b2 b3 : Byte) (k : Nat) :
    (wordOfLanes b0 b1 b2 b3).getLsbD k =
      if k < 8 then b0.getLsbD k else if k < 16 then b1.getLsbD (k - 8)
      else if k < 24 then b2.getLsbD (k - 16) else b3.getLsbD (k - 24) := by
  change (b3 ++ b2 ++ b1 ++ b0 : BitVec (8 + 8 + 8 + 8)).getLsbD k = _
  rw [BitVec.getLsbD_append, BitVec.getLsbD_append, BitVec.getLsbD_append]
  by_cases h0 : k < 8
  · simp [h0]
  · by_cases h1 : k < 16
    · simp [h0, h1, show k - 8 < 8 by omega]
    · by_cases h2 : k < 24
      · have hk : k - 8 - 8 = k - 16 := by omega
        simp [h0, h1, h2, show ¬ k - 8 < 8 by omega, hk, show k - 16 < 8 by omega]
      · simp [h0, h1, h2, show ¬ k - 8 < 8 by omega, show ¬ k - 8 - 8 < 8 by omega,
          show k - 8 - 8 - 8 = k - 24 by omega]

/-- The bits of a lane. -/
theorem getLsbD_lane (i : Nat) (v : Word) (j : Nat) :
    (lane i v).getLsbD j = (decide (j < 8) && v.getLsbD (8 * i + j)) := by
  simp [lane]

/-- Bytes with the same eight bits are the same byte. -/
theorem byte_ext {x y : Byte} (h : ∀ j, j < 8 → x.getLsbD j = y.getLsbD j) : x = y :=
  BitVec.eq_of_getLsbD_eq h

@[simp] theorem lane_wordOfLanes_0 (b0 b1 b2 b3 : Byte) : lane 0 (wordOfLanes b0 b1 b2 b3) = b0 :=
  byte_ext fun j hj => by
    rw [getLsbD_lane, getLsbD_wordOfLanes]
    simp [hj]

@[simp] theorem lane_wordOfLanes_1 (b0 b1 b2 b3 : Byte) : lane 1 (wordOfLanes b0 b1 b2 b3) = b1 :=
  byte_ext fun j hj => by
    rw [getLsbD_lane, getLsbD_wordOfLanes]
    simp [hj, show 8 + j < 16 by omega]

@[simp] theorem lane_wordOfLanes_2 (b0 b1 b2 b3 : Byte) : lane 2 (wordOfLanes b0 b1 b2 b3) = b2 :=
  byte_ext fun j hj => by
    rw [getLsbD_lane, getLsbD_wordOfLanes]
    simp [hj, show ¬ 16 + j < 8 by omega, show 16 + j < 24 by omega]

@[simp] theorem lane_wordOfLanes_3 (b0 b1 b2 b3 : Byte) : lane 3 (wordOfLanes b0 b1 b2 b3) = b3 :=
  byte_ext fun j hj => by
    rw [getLsbD_lane, getLsbD_wordOfLanes]
    simp [hj, show ¬ 24 + j < 8 by omega, show ¬ 24 + j < 16 by omega]

/-- Two words with the same four lanes are the same word. -/
theorem word_ext_lanes {v w : Word} (h : ∀ i, i < 4 → lane i v = lane i w) : v = w := by
  apply BitVec.eq_of_getLsbD_eq
  intro k hk
  have hl := congrArg (fun x : Byte => x.getLsbD (k % 8)) (h (k / 8) (by omega))
  have h8 : k % 8 < 8 := Nat.mod_lt k (by omega)
  simp only [getLsbD_lane, h8, decide_true, Bool.true_and, Nat.div_add_mod k 8] at hl
  exact hl

/-- A word is its four lanes. -/
@[simp] theorem wordOfLanes_lanes (v : Word) : wordOfLanes (lane 0 v) (lane 1 v) (lane 2 v) (lane 3 v) = v := by
  apply word_ext_lanes
  intro i hi
  have : i = 0 ∨ i = 1 ∨ i = 2 ∨ i = 3 := by omega
  rcases this with rfl | rfl | rfl | rfl <;> simp

namespace Machine

/-- The address port and the translation stay within `N` bits. -/
theorem portAddr_lt (c : Cfg) (raw : Nat) : portAddr c raw < 2 ^ c.addrWidth :=
  Nat.mod_lt _ (Nat.two_pow_pos _)

theorem xlate_lt (c : Cfg) (raw : Nat) : xlate c raw < 2 ^ c.addrWidth := by
  unfold xlate
  split <;> exact Nat.mod_lt _ (Nat.two_pow_pos _)

/-- `GO` of a merged value, when lane 0 is strobed, is bit 7 of the data (R62). -/
theorem goBit_eq_lane (v : Word) : goBit v = (lane 0 v).getLsbD 7 := by
  rw [getLsbD_lane]
  simp [goBit, ctrlBit]

end Machine

end Sys2Proof
end

