-- ==== Sys2Proof/Laws/Decode.lean ====
section
/-! SUPPORT. The laws of the byte layout: numbers to bytes and back, and the length of an encoding. -/

namespace Sys2Proof

open Config

@[simp] theorem bytesOfNat_length (n v : Nat) : (bytesOfNat n v).length = n := by
  induction n generalizing v with
  | zero => rfl
  | succ n ih => simp [bytesOfNat, ih]

/-- The bytes of a number, read back. -/
theorem natOfBytes_bytesOfNat (n v : Nat) : natOfBytes (bytesOfNat n v) = v % 256 ^ n := by
  induction n generalizing v with
  | zero => simp [bytesOfNat, natOfBytes, Nat.mod_one]
  | succ n ih =>
    simp only [bytesOfNat, natOfBytes, ih, BitVec.toNat_ofNat]
    change v % 256 + 256 * (v / 256 % 256 ^ n) = v % 256 ^ (n + 1)
    rw [Nat.pow_succ 256, Nat.mul_comm (256 ^ n) 256, Nat.mod_mul]

/-- A number read from bytes, written back. -/
theorem bytesOfNat_natOfBytes (l : List Byte) : bytesOfNat l.length (natOfBytes l) = l := by
  induction l with
  | nil => rfl
  | cons b rest ih =>
    have hb : b.toNat < 256 := b.isLt
    simp only [List.length_cons, bytesOfNat, natOfBytes]
    rw [show (b.toNat + 256 * natOfBytes rest) / 256 = natOfBytes rest by omega, ih]
    congr 1
    apply BitVec.eq_of_toNat_eq
    rw [BitVec.toNat_ofNat]
    omega

/-- The decode word fits the whole bytes it is given. -/
theorem decodeWord_room (c : Cfg) : 2 ^ (c.addrWidth + 1) ≤ 256 ^ decodeWordBytes c := by
  have h : (256 : Nat) ^ decodeWordBytes c = 2 ^ (8 * decodeWordBytes c) := by
    rw [show (256 : Nat) = 2 ^ 8 by norm_num, ← Nat.pow_mul]
  rw [h]
  apply Nat.pow_le_pow_right (by omega)
  simp only [decodeWordBytes]
  omega

/-! ### Parsing what was encoded -/

/-- A strobe in its own byte is below 16 and is read back. -/
theorem strobe_byte (st : Strobe) : ¬ 16 ≤ (st.setWidth 8).toNat ∧ (st.setWidth 8).setWidth 4 = st := by
  refine ⟨?_, ?_⟩
  · have := st.isLt
    rw [BitVec.toNat_setWidth]
    omega
  · revert st
    decide

theorem natOfBytes_decodeWord {c : Cfg} {t : Transaction} (h : decodeWord c t < 2 ^ (c.addrWidth + 1)) :
    natOfBytes (bytesOfNat (decodeWordBytes c) (decodeWord c t)) = decodeWord c t := by
  rw [natOfBytes_bytesOfNat]
  exact Nat.mod_eq_of_lt (Nat.lt_of_lt_of_le h (decodeWord_room c))

/-- The bytes of a read are parsed back. -/
theorem parse_read_bytes {c : Cfg} {a : Nat} (h : a < 2 ^ c.addrWidth) (rest : List Byte) :
    parse c ((Transaction.read a).bytes c ++ rest) = .ok (.read a, rest) := by
  have hd : decodeWord c (.read a) < 2 ^ (c.addrWidth + 1) := by
    simp only [decodeWord, Nat.pow_succ]; omega
  have hn := natOfBytes_decodeWord hd
  have h1 : ¬ 2 ^ (c.addrWidth + 1) ≤ a := by simp only [decodeWord] at hd; omega
  simp only [decodeWord] at hn
  simp [parse, Transaction.bytes, decodeWord, hn, h, h1]

/-- The bytes of a write are parsed back. -/
theorem parse_write_bytes {c : Cfg} {a : Nat} (h : a < 2 ^ c.addrWidth) (data : Word) (strb : Strobe)
    (rest : List Byte) :
    parse c ((Transaction.write a data strb).bytes c ++ rest) = .ok (.write a data strb, rest) := by
  have hd : decodeWord c (.write a data strb) < 2 ^ (c.addrWidth + 1) := by
    simp only [decodeWord, Nat.pow_succ]; omega
  have hn := natOfBytes_decodeWord hd
  have h1 : ¬ 2 ^ (c.addrWidth + 1) ≤ 2 ^ c.addrWidth + a := by simp only [decodeWord] at hd; omega
  simp only [decodeWord] at hn
  have hs := strobe_byte strb
  simp only [parse, Transaction.bytes, decodeWord, List.append_assoc, List.take_left' (bytesOfNat_length _ _),
    List.drop_left' (bytesOfNat_length _ _), hn, if_neg h1, List.length_append, bytesOfNat_length,
    List.cons_append, List.nil_append, if_neg hs.1, hs.2, wordOfLanes_lanes, Nat.add_sub_cancel_left]
  rw [if_neg (by omega), if_neg (by omega)]

end Sys2Proof
end

