-- ==== Sys2Proof/Laws/Mem.lean ====
section
/-! SUPPORT. The laws of the byte buffers: what a read after a write gives, that every operation keeps the canonical
form and the buffer's bound, and what a word access, the copy and the fill do, said once each. -/

namespace Sys2Proof.Machine

open Sys2Proof Config

/-! ### Reading -/

@[simp] theorem Mem.read_nil (k : Nat) : Mem.read [] k = Mem.unlisted := rfl

theorem Mem.read_cons (a : Nat) (v : Byte) (rest : Mem) (k : Nat) :
    Mem.read ((a, v) :: rest) k = if a = k then v else Mem.read rest k := rfl

/-- Entries a filter drops do not matter to an index it keeps. -/
theorem Mem.read_filter_of_pos (m : Mem) (p : Nat → Bool) (k : Nat) (h : p k = true) :
    Mem.read (m.filter (fun c => p c.1)) k = m.read k := by
  induction m with
  | nil => rfl
  | cons c rest ih =>
    obtain ⟨a, v⟩ := c
    by_cases ha : a = k
    · subst ha; simp [h, Mem.read_cons]
    · cases hp : p a <;> simp [hp, Mem.read_cons, ha, ih]

/-- An index that a filter drops is found only in what follows. -/
theorem Mem.read_filter_append_of_neg (m rest : Mem) (p : Nat → Bool) (k : Nat) (h : p k = false) :
    Mem.read (m.filter (fun c => p c.1) ++ rest) k = Mem.read rest k := by
  induction m with
  | nil => rfl
  | cons c tail ih =>
    obtain ⟨a, v⟩ := c
    cases hp : p a with
    | false => simpa [hp] using ih
    | true =>
      have ha : a ≠ k := by rintro rfl; simp [h] at hp
      simpa [hp, Mem.read_cons, ha] using ih

/-- An index not listed in the second part is read from the first. -/
theorem Mem.read_append_of_notin (m rest : Mem) (k : Nat) (h : ∀ c ∈ rest, c.1 ≠ k) :
    Mem.read (m ++ rest) k = Mem.read m k := by
  induction m with
  | nil =>
    induction rest with
    | nil => rfl
    | cons c tail ih =>
      obtain ⟨a, v⟩ := c
      have ha : a ≠ k := h (a, v) (by simp)
      have := ih (fun d hd => h d (by simp [hd]))
      simpa [Mem.read_cons, ha] using this
  | cons c tail ih =>
    obtain ⟨a, v⟩ := c
    simp only [List.cons_append, Mem.read_cons]
    split
    · rfl
    · exact ih

theorem Mem.mem_entry {c : Host.Cell} {k : Nat} {v : Byte} (h : c ∈ Mem.entry k v) :
    c = (k, v) ∧ v ≠ Mem.unlisted := by
  unfold Mem.entry at h
  split at h
  · simp at h
  · next hv => exact ⟨by simpa using h, hv⟩

@[simp] theorem Mem.read_entry (k : Nat) (v : Byte) (j : Nat) :
    Mem.read (Mem.entry k v) j = if j = k then v else Mem.unlisted := by
  unfold Mem.entry
  by_cases hv : v = Mem.unlisted
  · simp [hv]
  · by_cases hj : j = k
    · simp [hv, hj, Mem.read_cons]
    · simp [hv, hj, Mem.read_cons, Ne.symm hj]

/-- A read after a write gives the written byte at that index and leaves every other index alone. -/
@[simp] theorem Mem.read_write (m : Mem) (k : Nat) (v : Byte) (j : Nat) :
    (m.write k v).read j = if j = k then v else m.read j := by
  unfold Mem.write
  have above : ∀ c ∈ m.filter (fun c : Host.Cell => decide (k < c.1)), k < c.1 := by
    intro c hc; simpa using (List.mem_filter.mp hc).2
  rcases lt_trichotomy j k with hj | hj | hj
  · rw [Mem.read_append_of_notin _ _ j (fun c hc => by have := above c hc; omega),
      Mem.read_append_of_notin _ _ j (fun c hc => by have := (Mem.mem_entry hc).1; subst this; simp; omega),
      Mem.read_filter_of_pos m (fun a => decide (a < k)) j (by simpa using hj)]
    simp [Nat.ne_of_lt hj]
  · subst hj
    rw [Mem.read_append_of_notin _ _ j (fun c hc => by have := above c hc; omega),
      Mem.read_filter_append_of_neg m _ (fun a => decide (a < j)) j (by simp)]
    simp
  · rw [List.append_assoc, Mem.read_filter_append_of_neg m _ (fun a => decide (a < k)) j (by simp; omega)]
    have hjk : j ≠ k := by omega
    have h2 : Mem.read (Mem.entry k v ++ m.filter (fun c => decide (k < c.1))) j =
        Mem.read (m.filter (fun c => decide (k < c.1))) j := by
      unfold Mem.entry
      split
      · rfl
      · simp [Mem.read_cons, Ne.symm hjk]
    rw [h2, Mem.read_filter_of_pos m (fun a => decide (k < a)) j (by simpa using hj)]
    simp [hjk]

/-! ### The canonical form -/

theorem Mem.wf_iff (m : Mem) :
    m.wf = true ↔ m.Pairwise (fun x y => x.1 < y.1) ∧ ∀ c ∈ m, c.2 ≠ Mem.unlisted := by
  simp [Mem.wf]

theorem Mem.within_iff (m : Mem) (size : Nat) : m.within size = true ↔ ∀ c ∈ m, c.1 < size := by
  simp [Mem.within]

/-- A write keeps the canonical form. -/
theorem Mem.write_wf {m : Mem} (h : m.wf = true) (k : Nat) (v : Byte) : (m.write k v).wf = true := by
  rw [Mem.wf_iff] at h ⊢
  obtain ⟨hp, hn⟩ := h
  have he : (Mem.entry k v).Pairwise (fun x y => x.1 < y.1) := by
    unfold Mem.entry; split <;> simp
  refine ⟨?_, ?_⟩
  · unfold Mem.write
    rw [List.pairwise_append, List.pairwise_append]
    refine ⟨⟨hp.filter _, he, ?_⟩, hp.filter _, ?_⟩
    · intro x hx y hy
      have := (Mem.mem_entry hy).1
      subst this
      simpa using (List.mem_filter.mp hx).2
    · intro x hx y hy
      have hky : k < y.1 := by simpa using (List.mem_filter.mp hy).2
      rcases List.mem_append.mp hx with hx | hx
      · have : x.1 < k := by simpa using (List.mem_filter.mp hx).2
        omega
      · have := (Mem.mem_entry hx).1
        subst this
        exact hky
  · intro c hc
    unfold Mem.write at hc
    rcases List.mem_append.mp hc with hc | hc
    · rcases List.mem_append.mp hc with hc | hc
      · exact hn c (List.mem_of_mem_filter hc)
      · have := Mem.mem_entry hc
        rw [this.1]; exact this.2
    · exact hn c (List.mem_of_mem_filter hc)

/-- A write below the bound keeps every index below the bound. -/
theorem Mem.write_within {m : Mem} {size k : Nat} (h : m.within size = true) (hk : k < size) (v : Byte) :
    (m.write k v).within size = true := by
  rw [Mem.within_iff] at h ⊢
  intro c hc
  unfold Mem.write at hc
  rcases List.mem_append.mp hc with hc | hc
  · rcases List.mem_append.mp hc with hc | hc
    · exact h c (List.mem_of_mem_filter hc)
    · rw [(Mem.mem_entry hc).1]; exact hk
  · exact h c (List.mem_of_mem_filter hc)

@[simp] theorem Mem.wf_nil : Mem.wf [] = true := rfl

@[simp] theorem Mem.within_nil (size : Nat) : Mem.within [] size = true := rfl

/-! ### Words -/

theorem Mem.read_writeLane (m : Mem) (k0 : Nat) (data : Word) (strb : Strobe) (i j : Nat) :
    (m.writeLane k0 data strb i).read j =
      if laneEnabled strb i = true ∧ j = k0 + i then lane i data else m.read j := by
  unfold Mem.writeLane
  cases laneEnabled strb i <;> simp

/-- A strobed word write: an enabled lane's byte is the data's, every other byte is as before (R47). -/
theorem Mem.read_writeWord (m : Mem) (k0 : Nat) (data : Word) (strb : Strobe) (j : Nat) :
    (m.writeWord k0 data strb).read j =
      if k0 ≤ j ∧ j < k0 + 4 ∧ laneEnabled strb (j - k0) = true then lane (j - k0) data else m.read j := by
  simp only [Mem.writeWord, Mem.read_writeLane]
  by_cases h : k0 ≤ j ∧ j < k0 + 4
  · obtain ⟨i, hi, rfl⟩ : ∃ i, i < 4 ∧ j = k0 + i := ⟨j - k0, by omega, by omega⟩
    have : i = 0 ∨ i = 1 ∨ i = 2 ∨ i = 3 := by omega
    rcases this with rfl | rfl | rfl | rfl <;> simp
  · have h0 : j ≠ k0 + 0 := by omega
    have h1 : j ≠ k0 + 1 := by omega
    have h2 : j ≠ k0 + 2 := by omega
    have h3 : j ≠ k0 + 3 := by omega
    have h4 : ¬ (k0 ≤ j ∧ j < k0 + 4 ∧ laneEnabled strb (j - k0) = true) := fun hc => h ⟨hc.1, hc.2.1⟩
    rw [if_neg h4, if_neg (fun hc => h3 hc.2), if_neg (fun hc => h2 hc.2), if_neg (fun hc => h1 hc.2),
      if_neg (fun hc => h0 hc.2)]

theorem Mem.writeLane_wf {m : Mem} (h : m.wf = true) (k0 : Nat) (data : Word) (strb : Strobe) (i : Nat) :
    (m.writeLane k0 data strb i).wf = true := by
  unfold Mem.writeLane
  split
  · exact Mem.write_wf h _ _
  · exact h

theorem Mem.writeLane_within {m : Mem} {size k0 i : Nat} (h : m.within size = true) (hk : k0 + i < size)
    (data : Word) (strb : Strobe) : (m.writeLane k0 data strb i).within size = true := by
  unfold Mem.writeLane
  split
  · exact Mem.write_within h hk _
  · exact h

/-- A word write keeps the canonical form. -/
theorem Mem.writeWord_wf {m : Mem} (h : m.wf = true) (k0 : Nat) (data : Word) (strb : Strobe) :
    (m.writeWord k0 data strb).wf = true :=
  Mem.writeLane_wf (Mem.writeLane_wf (Mem.writeLane_wf (Mem.writeLane_wf h k0 data strb 0) k0 data strb 1)
    k0 data strb 2) k0 data strb 3

/-- A word write inside the buffer keeps the bound. -/
theorem Mem.writeWord_within {m : Mem} {size k0 : Nat} (h : m.within size = true) (hk : k0 + 4 ≤ size)
    (data : Word) (strb : Strobe) : (m.writeWord k0 data strb).within size = true :=
  Mem.writeLane_within (Mem.writeLane_within (Mem.writeLane_within (Mem.writeLane_within h (by omega) data strb)
    (by omega) data strb) (by omega) data strb) (by omega) data strb

/-! ### The copy and the fill -/

/-- The copy of R118: below `n` the source's byte, from `n` on the destination's own. -/
theorem Mem.read_copy (src dst : Mem) (n j : Nat) :
    (Mem.copy src dst n).read j = if j < n then src.read j else dst.read j := by
  induction n with
  | zero => simp [Mem.copy]
  | succ n ih =>
    simp only [Mem.copy, Mem.read_write, ih]
    by_cases h : j = n
    · simp [h]
    · by_cases h2 : j < n
      · simp [h, h2, Nat.lt_succ_of_lt h2]
      · have : ¬ j < n + 1 := by omega
        simp [h, h2, this]

theorem Mem.copy_wf {dst : Mem} (h : dst.wf = true) (src : Mem) (n : Nat) : (Mem.copy src dst n).wf = true := by
  induction n with
  | zero => exact h
  | succ n ih => exact Mem.write_wf ih _ _

theorem Mem.copy_within {dst : Mem} {size n : Nat} (h : dst.within size = true) (hn : n ≤ size) (src : Mem) :
    (Mem.copy src dst n).within size = true := by
  induction n with
  | zero => exact h
  | succ n ih => exact Mem.write_within (ih (by omega)) (by omega) _

theorem Mem.read_fill (f : Nat → Byte) (n j : Nat) :
    (Mem.fill f n).read j = if j < n then f j else Mem.unlisted := by
  induction n with
  | zero => simp [Mem.fill]
  | succ n ih =>
    simp only [Mem.fill, Mem.read_write, ih]
    by_cases h : j = n
    · simp [h]
    · by_cases h2 : j < n
      · simp [h, h2, Nat.lt_succ_of_lt h2]
      · have : ¬ j < n + 1 := by omega
        simp [h, h2, this]

theorem Mem.fill_wf (f : Nat → Byte) (n : Nat) : (Mem.fill f n).wf = true := by
  induction n with
  | zero => rfl
  | succ n ih => exact Mem.write_wf ih _ _

theorem Mem.fill_within (f : Nat → Byte) {n size : Nat} (h : n ≤ size) : (Mem.fill f n).within size = true := by
  induction n with
  | zero => rfl
  | succ n ih => exact Mem.write_within (ih (by omega)) (by omega) _

end Sys2Proof.Machine
end

