-- ==== Sys2Proof/Laws/PerInstr.lean ====
section
/-! SUPPORT. Statements about every operation as syntax, one lemma per constructor: how long its encoding is, and that
its address fits the address width. -/

namespace Sys2Proof.Laws

open Sys2Proof Config

/-- The encoding of an operation is the decode word's bytes, and for a write the five bytes of data and strobe. -/
def EncodedLength.Statement (i : Instr) : Prop :=
  ∀ c : Cfg, (encode c i).length = decodeWordBytes c + (if i.isWrite then 5 else 0)

theorem EncodedLength.wrCtrl (low : LowBits) (data : Word) (strb : Strobe) :
    EncodedLength.Statement (.wrCtrl low data strb) := fun c => by
  simp [encode, encodeTransaction, Transaction.bytes, Instr.isWrite]

theorem EncodedLength.wrReg (idx : Fin 16) (low : LowBits) (data : Word) (strb : Strobe) :
    EncodedLength.Statement (.wrReg idx low data strb) := fun c => by
  simp [encode, encodeTransaction, Transaction.bytes, Instr.isWrite]

theorem EncodedLength.wrIbuf (k : Nat) (low : LowBits) (data : Word) (strb : Strobe) :
    EncodedLength.Statement (.wrIbuf k low data strb) := fun c => by
  simp [encode, encodeTransaction, Transaction.bytes, Instr.isWrite]

theorem EncodedLength.wrObuf (k : Nat) (low : LowBits) (data : Word) (strb : Strobe) :
    EncodedLength.Statement (.wrObuf k low data strb) := fun c => by
  simp [encode, encodeTransaction, Transaction.bytes, Instr.isWrite]

theorem EncodedLength.wrUnmapped (a : Nat) (data : Word) (strb : Strobe) :
    EncodedLength.Statement (.wrUnmapped a data strb) := fun c => by
  simp [encode, encodeTransaction, Transaction.bytes, Instr.isWrite]

theorem EncodedLength.rdReg (idx : Fin 16) (low : LowBits) : EncodedLength.Statement (.rdReg idx low) := fun c => by
  simp [encode, encodeTransaction, Transaction.bytes, Instr.isWrite]

theorem EncodedLength.rdObuf (k : Nat) (low : LowBits) : EncodedLength.Statement (.rdObuf k low) := fun c => by
  simp [encode, encodeTransaction, Transaction.bytes, Instr.isWrite]

theorem EncodedLength.rdIbuf (k : Nat) (low : LowBits) : EncodedLength.Statement (.rdIbuf k low) := fun c => by
  simp [encode, encodeTransaction, Transaction.bytes, Instr.isWrite]

theorem EncodedLength.rdUnmapped (a : Nat) : EncodedLength.Statement (.rdUnmapped a) := fun c => by
  simp [encode, encodeTransaction, Transaction.bytes, Instr.isWrite]

/-- The address of a transaction. -/
def addressOf : Transaction → Nat
  | .write a _ _ => a
  | .read a => a

/-- The address assembled for a well-formed operation has `N` bits (R62). -/
def AddressFits.Statement (i : Instr) : Prop :=
  ∀ c : Cfg, c.wf = true → i.wf c = true → addressOf (encodeTransaction c i) < 2 ^ c.addrWidth

/-- An address below `REG_SPAN` has `N` bits. -/
theorem regAddress_fits {c : Cfg} (hc : c.wf = true) {a : Nat} (h : a < 64) : a < 2 ^ c.addrWidth := by
  have h1 := Cfg.wf_address hc
  have h2 := Cfg.wf_inside hc
  omega

/-- An address in a buffer word has `N` bits. -/
theorem bufferAddress_fits {c : Cfg} (hc : c.wf = true) {offset size k : Nat} (hs : offset + size ≤ c.size)
    (hm : size % 4 = 0) (hk : bpw * k < size) (low : LowBits) : offset + bpw * k + low.toNat < 2 ^ c.addrWidth := by
  have h1 := Cfg.wf_address hc
  have h2 := low.isLt
  simp only [bpw] at hk ⊢
  omega

theorem AddressFits.wrCtrl (low : LowBits) (data : Word) (strb : Strobe) :
    AddressFits.Statement (.wrCtrl low data strb) := fun c hc _ =>
  regAddress_fits hc (by have := low.isLt; simp only [addressOf, encodeTransaction]; omega)

theorem AddressFits.wrReg (idx : Fin 16) (low : LowBits) (data : Word) (strb : Strobe) :
    AddressFits.Statement (.wrReg idx low data strb) := fun c hc _ =>
  regAddress_fits hc (by
    have := low.isLt
    have := idx.isLt
    simp only [addressOf, encodeTransaction, bpw]
    omega)

theorem AddressFits.wrIbuf (k : Nat) (low : LowBits) (data : Word) (strb : Strobe) :
    AddressFits.Statement (.wrIbuf k low data strb) := fun c hc hi =>
  bufferAddress_fits hc (Cfg.wf_inside hc).2.1 (Cfg.wf_align hc).2.1 (by simpa [Instr.wf] using hi) low

theorem AddressFits.wrObuf (k : Nat) (low : LowBits) (data : Word) (strb : Strobe) :
    AddressFits.Statement (.wrObuf k low data strb) := fun c hc hi =>
  bufferAddress_fits hc (Cfg.wf_inside hc).2.2 (Cfg.wf_align hc).2.2.2.1 (by simpa [Instr.wf] using hi) low

theorem AddressFits.wrUnmapped (a : Nat) (data : Word) (strb : Strobe) :
    AddressFits.Statement (.wrUnmapped a data strb) := fun _ _ hi => (Cfg.unmappedOk_iff.mp hi).1

theorem AddressFits.rdReg (idx : Fin 16) (low : LowBits) : AddressFits.Statement (.rdReg idx low) := fun c hc _ =>
  regAddress_fits hc (by
    have := low.isLt
    have := idx.isLt
    simp only [addressOf, encodeTransaction, bpw]
    omega)

theorem AddressFits.rdObuf (k : Nat) (low : LowBits) : AddressFits.Statement (.rdObuf k low) := fun c hc hi =>
  bufferAddress_fits hc (Cfg.wf_inside hc).2.2 (Cfg.wf_align hc).2.2.2.1 (by simpa [Instr.wf] using hi) low

theorem AddressFits.rdIbuf (k : Nat) (low : LowBits) : AddressFits.Statement (.rdIbuf k low) := fun c hc hi =>
  bufferAddress_fits hc (Cfg.wf_inside hc).2.1 (Cfg.wf_align hc).2.1 (by simpa [Instr.wf] using hi) low

theorem AddressFits.rdUnmapped (a : Nat) : AddressFits.Statement (.rdUnmapped a) := fun _ _ hi =>
  (Cfg.unmappedOk_iff.mp hi).1

end Sys2Proof.Laws
end

