-- ==== Sys2Proof/Laws/State.lean ====
section
/-! SUPPORT. One lemma per field per update of the state, true by rfl, so that no proof unfolds a record update; what
`assemble` and the reset tick put in each field; the input accessors. -/

namespace Sys2Proof.Machine

open Sys2Proof Config

section
variable (s : State)

@[simp] theorem State.writeReg_cfg (idx : Fin 16) (v : Word) : (s.writeReg idx v).cfg = s.cfg := rfl
@[simp] theorem State.writeReg_inputs (idx : Fin 16) (v : Word) : (s.writeReg idx v).inputs = s.inputs := rfl
@[simp] theorem State.writeReg_draws (idx : Fin 16) (v : Word) : (s.writeReg idx v).draws = s.draws := rfl
@[simp] theorem State.writeReg_aw (idx : Fin 16) (v : Word) : (s.writeReg idx v).aw = s.aw := rfl
@[simp] theorem State.writeReg_w (idx : Fin 16) (v : Word) : (s.writeReg idx v).w = s.w := rfl
@[simp] theorem State.writeReg_b (idx : Fin 16) (v : Word) : (s.writeReg idx v).b = s.b := rfl
@[simp] theorem State.writeReg_ar (idx : Fin 16) (v : Word) : (s.writeReg idx v).ar = s.ar := rfl
@[simp] theorem State.writeReg_r (idx : Fin 16) (v : Word) : (s.writeReg idx v).r = s.r := rfl
@[simp] theorem State.writeReg_dw (idx : Fin 16) (v : Word) : (s.writeReg idx v).dw = s.dw := rfl
@[simp] theorem State.writeReg_dr (idx : Fin 16) (v : Word) : (s.writeReg idx v).dr = s.dr := rfl
@[simp] theorem State.writeReg_regs (idx : Fin 16) (v : Word) : (s.writeReg idx v).regs = s.regs.set idx v := rfl
@[simp] theorem State.writeReg_ibuf (idx : Fin 16) (v : Word) : (s.writeReg idx v).ibuf = s.ibuf := rfl
@[simp] theorem State.writeReg_obuf (idx : Fin 16) (v : Word) : (s.writeReg idx v).obuf = s.obuf := rfl
@[simp] theorem State.writeReg_irq (idx : Fin 16) (v : Word) : (s.writeReg idx v).irq = s.irq := rfl

@[simp] theorem State.mergeReg_cfg (idx : Fin 16) (data : Word) (strb : Strobe) : (s.mergeReg idx data strb).cfg = s.cfg := rfl
@[simp] theorem State.mergeReg_inputs (idx : Fin 16) (data : Word) (strb : Strobe) : (s.mergeReg idx data strb).inputs = s.inputs := rfl
@[simp] theorem State.mergeReg_draws (idx : Fin 16) (data : Word) (strb : Strobe) : (s.mergeReg idx data strb).draws = s.draws := rfl
@[simp] theorem State.mergeReg_aw (idx : Fin 16) (data : Word) (strb : Strobe) : (s.mergeReg idx data strb).aw = s.aw := rfl
@[simp] theorem State.mergeReg_w (idx : Fin 16) (data : Word) (strb : Strobe) : (s.mergeReg idx data strb).w = s.w := rfl
@[simp] theorem State.mergeReg_b (idx : Fin 16) (data : Word) (strb : Strobe) : (s.mergeReg idx data strb).b = s.b := rfl
@[simp] theorem State.mergeReg_ar (idx : Fin 16) (data : Word) (strb : Strobe) : (s.mergeReg idx data strb).ar = s.ar := rfl
@[simp] theorem State.mergeReg_r (idx : Fin 16) (data : Word) (strb : Strobe) : (s.mergeReg idx data strb).r = s.r := rfl
@[simp] theorem State.mergeReg_dw (idx : Fin 16) (data : Word) (strb : Strobe) : (s.mergeReg idx data strb).dw = s.dw := rfl
@[simp] theorem State.mergeReg_dr (idx : Fin 16) (data : Word) (strb : Strobe) : (s.mergeReg idx data strb).dr = s.dr := rfl
@[simp] theorem State.mergeReg_regs (idx : Fin 16) (data : Word) (strb : Strobe) : (s.mergeReg idx data strb).regs = s.regs.set idx (merge (s.readReg idx) data strb) := rfl
@[simp] theorem State.mergeReg_ibuf (idx : Fin 16) (data : Word) (strb : Strobe) : (s.mergeReg idx data strb).ibuf = s.ibuf := rfl
@[simp] theorem State.mergeReg_obuf (idx : Fin 16) (data : Word) (strb : Strobe) : (s.mergeReg idx data strb).obuf = s.obuf := rfl
@[simp] theorem State.mergeReg_irq (idx : Fin 16) (data : Word) (strb : Strobe) : (s.mergeReg idx data strb).irq = s.irq := rfl

@[simp] theorem State.writeIbuf_cfg (k0 : Nat) (data : Word) (strb : Strobe) : (s.writeIbuf k0 data strb).cfg = s.cfg := rfl
@[simp] theorem State.writeIbuf_inputs (k0 : Nat) (data : Word) (strb : Strobe) : (s.writeIbuf k0 data strb).inputs = s.inputs := rfl
@[simp] theorem State.writeIbuf_draws (k0 : Nat) (data : Word) (strb : Strobe) : (s.writeIbuf k0 data strb).draws = s.draws := rfl
@[simp] theorem State.writeIbuf_aw (k0 : Nat) (data : Word) (strb : Strobe) : (s.writeIbuf k0 data strb).aw = s.aw := rfl
@[simp] theorem State.writeIbuf_w (k0 : Nat) (data : Word) (strb : Strobe) : (s.writeIbuf k0 data strb).w = s.w := rfl
@[simp] theorem State.writeIbuf_b (k0 : Nat) (data : Word) (strb : Strobe) : (s.writeIbuf k0 data strb).b = s.b := rfl
@[simp] theorem State.writeIbuf_ar (k0 : Nat) (data : Word) (strb : Strobe) : (s.writeIbuf k0 data strb).ar = s.ar := rfl
@[simp] theorem State.writeIbuf_r (k0 : Nat) (data : Word) (strb : Strobe) : (s.writeIbuf k0 data strb).r = s.r := rfl
@[simp] theorem State.writeIbuf_dw (k0 : Nat) (data : Word) (strb : Strobe) : (s.writeIbuf k0 data strb).dw = s.dw := rfl
@[simp] theorem State.writeIbuf_dr (k0 : Nat) (data : Word) (strb : Strobe) : (s.writeIbuf k0 data strb).dr = s.dr := rfl
@[simp] theorem State.writeIbuf_regs (k0 : Nat) (data : Word) (strb : Strobe) : (s.writeIbuf k0 data strb).regs = s.regs := rfl
@[simp] theorem State.writeIbuf_ibuf (k0 : Nat) (data : Word) (strb : Strobe) : (s.writeIbuf k0 data strb).ibuf = s.ibuf.writeWord k0 data strb := rfl
@[simp] theorem State.writeIbuf_obuf (k0 : Nat) (data : Word) (strb : Strobe) : (s.writeIbuf k0 data strb).obuf = s.obuf := rfl
@[simp] theorem State.writeIbuf_irq (k0 : Nat) (data : Word) (strb : Strobe) : (s.writeIbuf k0 data strb).irq = s.irq := rfl

@[simp] theorem State.setIrq_cfg (v : Bool) : (s.setIrq v).cfg = s.cfg := rfl
@[simp] theorem State.setIrq_inputs (v : Bool) : (s.setIrq v).inputs = s.inputs := rfl
@[simp] theorem State.setIrq_draws (v : Bool) : (s.setIrq v).draws = s.draws := rfl
@[simp] theorem State.setIrq_aw (v : Bool) : (s.setIrq v).aw = s.aw := rfl
@[simp] theorem State.setIrq_w (v : Bool) : (s.setIrq v).w = s.w := rfl
@[simp] theorem State.setIrq_b (v : Bool) : (s.setIrq v).b = s.b := rfl
@[simp] theorem State.setIrq_ar (v : Bool) : (s.setIrq v).ar = s.ar := rfl
@[simp] theorem State.setIrq_r (v : Bool) : (s.setIrq v).r = s.r := rfl
@[simp] theorem State.setIrq_dw (v : Bool) : (s.setIrq v).dw = s.dw := rfl
@[simp] theorem State.setIrq_dr (v : Bool) : (s.setIrq v).dr = s.dr := rfl
@[simp] theorem State.setIrq_regs (v : Bool) : (s.setIrq v).regs = s.regs := rfl
@[simp] theorem State.setIrq_ibuf (v : Bool) : (s.setIrq v).ibuf = s.ibuf := rfl
@[simp] theorem State.setIrq_obuf (v : Bool) : (s.setIrq v).obuf = s.obuf := rfl
@[simp] theorem State.setIrq_irq (v : Bool) : (s.setIrq v).irq = v := rfl

@[simp] theorem State.compute_cfg : (s.compute).cfg = s.cfg := rfl
@[simp] theorem State.compute_inputs : (s.compute).inputs = s.inputs := rfl
@[simp] theorem State.compute_draws : (s.compute).draws = s.draws := rfl
@[simp] theorem State.compute_aw : (s.compute).aw = s.aw := rfl
@[simp] theorem State.compute_w : (s.compute).w = s.w := rfl
@[simp] theorem State.compute_b : (s.compute).b = s.b := rfl
@[simp] theorem State.compute_ar : (s.compute).ar = s.ar := rfl
@[simp] theorem State.compute_r : (s.compute).r = s.r := rfl
@[simp] theorem State.compute_dw : (s.compute).dw = s.dw := rfl
@[simp] theorem State.compute_dr : (s.compute).dr = s.dr := rfl
@[simp] theorem State.compute_regs : (s.compute).regs = s.regs := rfl
@[simp] theorem State.compute_ibuf : (s.compute).ibuf = s.ibuf := rfl
@[simp] theorem State.compute_obuf : (s.compute).obuf = Mem.copy s.ibuf s.obuf (Cfg.copyLength s.cfg) := rfl
@[simp] theorem State.compute_irq : (s.compute).irq = s.irq := rfl

@[simp] theorem State.completeWrite_cfg : (s.completeWrite).cfg = s.cfg := rfl
@[simp] theorem State.completeWrite_inputs : (s.completeWrite).inputs = s.inputs := rfl
@[simp] theorem State.completeWrite_draws : (s.completeWrite).draws = s.draws := rfl
@[simp] theorem State.completeWrite_aw : (s.completeWrite).aw = s.aw := rfl
@[simp] theorem State.completeWrite_w : (s.completeWrite).w = s.w := rfl
@[simp] theorem State.completeWrite_b : (s.completeWrite).b = s.b := rfl
@[simp] theorem State.completeWrite_ar : (s.completeWrite).ar = s.ar := rfl
@[simp] theorem State.completeWrite_r : (s.completeWrite).r = s.r := rfl
@[simp] theorem State.completeWrite_dw : (s.completeWrite).dw = { state := .ack, ready := true } := rfl
@[simp] theorem State.completeWrite_dr : (s.completeWrite).dr = s.dr := rfl
@[simp] theorem State.completeWrite_regs : (s.completeWrite).regs = s.regs := rfl
@[simp] theorem State.completeWrite_ibuf : (s.completeWrite).ibuf = s.ibuf := rfl
@[simp] theorem State.completeWrite_obuf : (s.completeWrite).obuf = s.obuf := rfl
@[simp] theorem State.completeWrite_irq : (s.completeWrite).irq = s.irq := rfl

@[simp] theorem State.startCompute_cfg : (s.startCompute).cfg = s.cfg := rfl
@[simp] theorem State.startCompute_inputs : (s.startCompute).inputs = s.inputs := rfl
@[simp] theorem State.startCompute_draws : (s.startCompute).draws = s.draws := rfl
@[simp] theorem State.startCompute_aw : (s.startCompute).aw = s.aw := rfl
@[simp] theorem State.startCompute_w : (s.startCompute).w = s.w := rfl
@[simp] theorem State.startCompute_b : (s.startCompute).b = s.b := rfl
@[simp] theorem State.startCompute_ar : (s.startCompute).ar = s.ar := rfl
@[simp] theorem State.startCompute_r : (s.startCompute).r = s.r := rfl
@[simp] theorem State.startCompute_dw : (s.startCompute).dw = { s.dw with state := .compute } := rfl
@[simp] theorem State.startCompute_dr : (s.startCompute).dr = s.dr := rfl
@[simp] theorem State.startCompute_regs : (s.startCompute).regs = s.regs := rfl
@[simp] theorem State.startCompute_ibuf : (s.startCompute).ibuf = s.ibuf := rfl
@[simp] theorem State.startCompute_obuf : (s.startCompute).obuf = s.obuf := rfl
@[simp] theorem State.startCompute_irq : (s.startCompute).irq = s.irq := rfl

@[simp] theorem State.finishWrite_cfg : (s.finishWrite).cfg = s.cfg := rfl
@[simp] theorem State.finishWrite_inputs : (s.finishWrite).inputs = s.inputs := rfl
@[simp] theorem State.finishWrite_draws : (s.finishWrite).draws = s.draws := rfl
@[simp] theorem State.finishWrite_aw : (s.finishWrite).aw = s.aw := rfl
@[simp] theorem State.finishWrite_w : (s.finishWrite).w = s.w := rfl
@[simp] theorem State.finishWrite_b : (s.finishWrite).b = s.b := rfl
@[simp] theorem State.finishWrite_ar : (s.finishWrite).ar = s.ar := rfl
@[simp] theorem State.finishWrite_r : (s.finishWrite).r = s.r := rfl
@[simp] theorem State.finishWrite_dw : (s.finishWrite).dw = { state := .idle, ready := false } := rfl
@[simp] theorem State.finishWrite_dr : (s.finishWrite).dr = s.dr := rfl
@[simp] theorem State.finishWrite_regs : (s.finishWrite).regs = s.regs := rfl
@[simp] theorem State.finishWrite_ibuf : (s.finishWrite).ibuf = s.ibuf := rfl
@[simp] theorem State.finishWrite_obuf : (s.finishWrite).obuf = s.obuf := rfl
@[simp] theorem State.finishWrite_irq : (s.finishWrite).irq = s.irq := rfl

@[simp] theorem State.completeRead_cfg (v : Word) : (s.completeRead v).cfg = s.cfg := rfl
@[simp] theorem State.completeRead_inputs (v : Word) : (s.completeRead v).inputs = s.inputs := rfl
@[simp] theorem State.completeRead_draws (v : Word) : (s.completeRead v).draws = s.draws := rfl
@[simp] theorem State.completeRead_aw (v : Word) : (s.completeRead v).aw = s.aw := rfl
@[simp] theorem State.completeRead_w (v : Word) : (s.completeRead v).w = s.w := rfl
@[simp] theorem State.completeRead_b (v : Word) : (s.completeRead v).b = s.b := rfl
@[simp] theorem State.completeRead_ar (v : Word) : (s.completeRead v).ar = s.ar := rfl
@[simp] theorem State.completeRead_r (v : Word) : (s.completeRead v).r = s.r := rfl
@[simp] theorem State.completeRead_dw (v : Word) : (s.completeRead v).dw = s.dw := rfl
@[simp] theorem State.completeRead_dr (v : Word) : (s.completeRead v).dr = { state := .ack, ready := true, rdata := v } := rfl
@[simp] theorem State.completeRead_regs (v : Word) : (s.completeRead v).regs = s.regs := rfl
@[simp] theorem State.completeRead_ibuf (v : Word) : (s.completeRead v).ibuf = s.ibuf := rfl
@[simp] theorem State.completeRead_obuf (v : Word) : (s.completeRead v).obuf = s.obuf := rfl
@[simp] theorem State.completeRead_irq (v : Word) : (s.completeRead v).irq = s.irq := rfl

@[simp] theorem State.finishRead_cfg : (s.finishRead).cfg = s.cfg := rfl
@[simp] theorem State.finishRead_inputs : (s.finishRead).inputs = s.inputs := rfl
@[simp] theorem State.finishRead_draws : (s.finishRead).draws = s.draws := rfl
@[simp] theorem State.finishRead_aw : (s.finishRead).aw = s.aw := rfl
@[simp] theorem State.finishRead_w : (s.finishRead).w = s.w := rfl
@[simp] theorem State.finishRead_b : (s.finishRead).b = s.b := rfl
@[simp] theorem State.finishRead_ar : (s.finishRead).ar = s.ar := rfl
@[simp] theorem State.finishRead_r : (s.finishRead).r = s.r := rfl
@[simp] theorem State.finishRead_dw : (s.finishRead).dw = s.dw := rfl
@[simp] theorem State.finishRead_dr : (s.finishRead).dr = { s.dr with state := .idle, ready := false } := rfl
@[simp] theorem State.finishRead_regs : (s.finishRead).regs = s.regs := rfl
@[simp] theorem State.finishRead_ibuf : (s.finishRead).ibuf = s.ibuf := rfl
@[simp] theorem State.finishRead_obuf : (s.finishRead).obuf = s.obuf := rfl
@[simp] theorem State.finishRead_irq : (s.finishRead).irq = s.irq := rfl

@[simp] theorem State.nextDraw_cfg : (s.nextDraw).cfg = s.cfg := rfl
@[simp] theorem State.nextDraw_inputs : (s.nextDraw).inputs = s.inputs := rfl
@[simp] theorem State.nextDraw_draws : (s.nextDraw).draws = s.draws + 1 := rfl
@[simp] theorem State.nextDraw_aw : (s.nextDraw).aw = s.aw := rfl
@[simp] theorem State.nextDraw_w : (s.nextDraw).w = s.w := rfl
@[simp] theorem State.nextDraw_b : (s.nextDraw).b = s.b := rfl
@[simp] theorem State.nextDraw_ar : (s.nextDraw).ar = s.ar := rfl
@[simp] theorem State.nextDraw_r : (s.nextDraw).r = s.r := rfl
@[simp] theorem State.nextDraw_dw : (s.nextDraw).dw = s.dw := rfl
@[simp] theorem State.nextDraw_dr : (s.nextDraw).dr = s.dr := rfl
@[simp] theorem State.nextDraw_regs : (s.nextDraw).regs = s.regs := rfl
@[simp] theorem State.nextDraw_ibuf : (s.nextDraw).ibuf = s.ibuf := rfl
@[simp] theorem State.nextDraw_obuf : (s.nextDraw).obuf = s.obuf := rfl
@[simp] theorem State.nextDraw_irq : (s.nextDraw).irq = s.irq := rfl

end

section
variable (s : State) (i : Input) (d r : State)

@[simp] theorem assemble_cfg : (assemble s i d r).cfg = s.cfg := rfl
@[simp] theorem assemble_inputs : (assemble s i d r).inputs = s.inputs.tail := rfl
@[simp] theorem assemble_draws : (assemble s i d r).draws = r.draws := rfl
@[simp] theorem assemble_aw : (assemble s i d r).aw = nextAw s i := rfl
@[simp] theorem assemble_w : (assemble s i d r).w = nextW s i := rfl
@[simp] theorem assemble_b : (assemble s i d r).b = nextB s i := rfl
@[simp] theorem assemble_ar : (assemble s i d r).ar = nextAr s i := rfl
@[simp] theorem assemble_r : (assemble s i d r).r = nextR s i := rfl
@[simp] theorem assemble_dw : (assemble s i d r).dw = d.dw := rfl
@[simp] theorem assemble_dr : (assemble s i d r).dr = r.dr := rfl
@[simp] theorem assemble_regs : (assemble s i d r).regs = d.regs := rfl
@[simp] theorem assemble_ibuf : (assemble s i d r).ibuf = d.ibuf := rfl
@[simp] theorem assemble_obuf : (assemble s i d r).obuf = d.obuf := rfl
@[simp] theorem assemble_irq : (assemble s i d r).irq = d.irq := rfl

end

section
variable (s : State)

@[simp] theorem State.resetTick_cfg : s.resetTick.cfg = s.cfg := rfl
@[simp] theorem State.resetTick_inputs : s.resetTick.inputs = s.inputs.tail := rfl
@[simp] theorem State.resetTick_draws : s.resetTick.draws = s.draws + 1 := rfl
@[simp] theorem State.resetTick_aw :
    s.resetTick.aw =
      { state := .readyHigh, ready := false, auxValid := false, addr := portAddr s.cfg (resetWaddr s.draws) } := rfl
@[simp] theorem State.resetTick_w :
    s.resetTick.w =
      { state := .readyHigh, ready := false, auxValid := false, data := resetWdata s.draws, strb := resetWstrb s.draws } := rfl
@[simp] theorem State.resetTick_b :
    s.resetTick.b =
      { state := .collect, valid := false, sAwv := false, sAwr := false, sWv := false, sWr := false } := rfl
@[simp] theorem State.resetTick_ar :
    s.resetTick.ar =
      { state := .readyHigh, ready := false, auxValid := false, addr := portAddr s.cfg (resetRaddr s.draws) } := rfl
@[simp] theorem State.resetTick_r :
    s.resetTick.r =
      { state := .idle, valid := false, data := resetRdata s.draws } := rfl
@[simp] theorem State.resetTick_dw : s.resetTick.dw = { state := .idle, ready := false } := rfl
@[simp] theorem State.resetTick_dr :
    s.resetTick.dr =
      { state := .idle, ready := false, rdata := resetDevRdata s.draws } := rfl
@[simp] theorem State.resetTick_regs : s.resetTick.regs = Vector.ofFn (fun i => resetReg s.draws i.val) := rfl
@[simp] theorem State.resetTick_ibuf : s.resetTick.ibuf = Mem.fill (resetIbuf s.draws) s.cfg.rfileSize := rfl
@[simp] theorem State.resetTick_obuf : s.resetTick.obuf = Mem.fill (resetObuf s.draws) s.cfg.wfileSize := rfl
@[simp] theorem State.resetTick_irq : s.resetTick.irq = false := rfl

end

/-- A register read after a register write. -/
@[simp] theorem State.readReg_writeReg (s : State) (idx j : Fin 16) (v : Word) :
    (s.writeReg idx v).readReg j = if idx = j then v else s.readReg j := by
  simp [State.readReg, State.writeReg, Vector.getElem_set, Fin.ext_iff]

/-- Two states with the same registers read alike. -/
theorem State.readReg_congr {s t : State} (h : t.regs = s.regs) (j : Fin 16) : t.readReg j = s.readReg j := by
  simp [State.readReg, h]

/-- With the head of the inputs known, it is the input of this tick. -/
@[simp] theorem State.input_cons (s : State) (i : Input) (rest : List Input) :
    ({ s with inputs := i :: rest } : State).input = i := rfl

/-- The input of the next tick, after a step has taken the head. -/
theorem State.input_of_tail {s t : State} (h : t.inputs = s.inputs.tail) : t.input = s.nextInput := by
  simp [State.input, State.nextInput, h]

@[simp] theorem State.inputAt_zero (s : State) : s.inputAt 0 = s.input := rfl

@[simp] theorem State.inputAt_one (s : State) : s.inputAt 1 = s.nextInput := by
  simp [State.inputAt, State.nextInput]

/-- A later input, after a step has taken the head. -/
theorem State.inputAt_of_tail {s t : State} (h : t.inputs = s.inputs.tail) (k : Nat) :
    t.inputAt k = s.inputAt (k + 1) := by
  simp [State.inputAt, h]

end Sys2Proof.Machine
end

