-- ==== Sys2Proof/Laws/Step.lean ====
section
/-! SUPPORT. What a step can do, said once: each device procedure's tick as a case list, the step as a case list, the
channels' ticks by state, the forms of a decoded operation, and the induction over a run. -/

namespace Sys2Proof.Machine

open Sys2Proof Config

/-! ### Forms of a decoded operation -/

/-- A write decodes to a write operation (R111). -/
theorem decodeWrite_cases (c : Cfg) (a : Nat) (data : Word) (strb : Strobe) :
    (region c a = .reg ∧ regIndex a = 0 ∧ decodeWrite c a data strb = .wrCtrl (lowBits a) data strb) ∨
    (region c a = .reg ∧ regIndex a ≠ 0 ∧ decodeWrite c a data strb = .wrReg (regIndex a) (lowBits a) data strb) ∨
    (region c a = .ibuf ∧
      decodeWrite c a data strb = .wrIbuf (wordIndex c.rfileOffset a) (lowBits a) data strb) ∨
    (region c a = .obuf ∧
      decodeWrite c a data strb = .wrObuf (wordIndex c.wfileOffset a) (lowBits a) data strb) ∨
    (region c a = .unmapped ∧ decodeWrite c a data strb = .wrUnmapped a data strb) := by
  unfold decodeWrite
  cases h : region c a
  · by_cases h0 : regIndex a = 0 <;> simp [h0]
  all_goals simp

/-- A read decodes to a read operation (R130). -/
theorem decodeRead_cases (c : Cfg) (a : Nat) :
    (region c a = .reg ∧ decodeRead c a = .rdReg (regIndex a) (lowBits a)) ∨
    (region c a = .obuf ∧ decodeRead c a = .rdObuf (wordIndex c.wfileOffset a) (lowBits a)) ∨
    (region c a = .ibuf ∧ decodeRead c a = .rdIbuf (wordIndex c.rfileOffset a) (lowBits a)) ∨
    (region c a = .unmapped ∧ decodeRead c a = .rdUnmapped a) := by
  unfold decodeRead
  cases h : region c a <;> simp

/-! ### The device procedures' ticks -/

/-- What `DW`'s tick can be (R110, R117, R119). -/
theorem deviceWriteTick_cases (s : State) :
    (s.dw.state = .idle ∧ s.devWvalid = true ∧ deviceWriteTick s = exec s.writeOperation s) ∨
    (s.dw.state = .idle ∧ s.devWvalid = false ∧ deviceWriteTick s = .next s) ∨
    (s.dw.state = .compute ∧ deviceWriteTick s = .next (computeTick s)) ∨
    (s.dw.state = .ack ∧ s.devWvalid = true ∧ deviceWriteTick s = .next s) ∨
    (s.dw.state = .ack ∧ s.devWvalid = false ∧ deviceWriteTick s = .next s.finishWrite) := by
  unfold deviceWriteTick
  cases h : s.dw.state <;> cases hv : s.devWvalid <;> simp

/-- What `DR`'s tick can be (R130, R135). -/
theorem deviceReadTick_cases (s : State) :
    (s.dr.state = .idle ∧ s.ar.auxValid = true ∧ deviceReadTick s = exec s.readOperation s) ∨
    (s.dr.state = .idle ∧ s.ar.auxValid = false ∧ deviceReadTick s = .next s) ∨
    (s.dr.state = .ack ∧ s.ar.auxValid = true ∧ deviceReadTick s = .next s) ∨
    (s.dr.state = .ack ∧ s.ar.auxValid = false ∧ deviceReadTick s = .next s.finishRead) := by
  unfold deviceReadTick
  cases h : s.dr.state <;> cases hv : s.ar.auxValid <;> simp

/-- Every operation has a next state: none faults, none refuses (R66, R140). -/
theorem exec_isNext (i : Instr) (s : State) : ∃ t, exec i s = .next t := by
  cases i with
  | wrCtrl low data strb =>
    by_cases h : goBit (merge (s.readReg 0) data strb) = true
    · exact ⟨_, if_pos h⟩
    · exact ⟨_, if_neg h⟩
  | wrReg => exact ⟨_, rfl⟩
  | wrIbuf => exact ⟨_, rfl⟩
  | wrObuf => exact ⟨_, rfl⟩
  | wrUnmapped => exact ⟨_, rfl⟩
  | rdReg => exact ⟨_, rfl⟩
  | rdObuf => exact ⟨_, rfl⟩
  | rdIbuf => exact ⟨_, rfl⟩
  | rdUnmapped => exact ⟨_, rfl⟩

theorem deviceWriteTick_isNext (s : State) : ∃ t, deviceWriteTick s = .next t := by
  rcases deviceWriteTick_cases s with ⟨-, -, h⟩ | ⟨-, -, h⟩ | ⟨-, h⟩ | ⟨-, -, h⟩ | ⟨-, -, h⟩
  · rw [h]; exact exec_isNext _ _
  all_goals exact ⟨_, h⟩

theorem deviceReadTick_isNext (s : State) : ∃ t, deviceReadTick s = .next t := by
  rcases deviceReadTick_cases s with ⟨-, -, h⟩ | ⟨-, -, h⟩ | ⟨-, -, h⟩ | ⟨-, -, h⟩
  · rw [h]; exact exec_isNext _ _
  all_goals exact ⟨_, h⟩

/-! ### The step -/

/-- A tick without reset, from the two device procedures' ticks. -/
theorem processTick_eq {s d r : State} (hd : deviceWriteTick s = .next d) (hr : deviceReadTick s = .next r) :
    processTick s = .next (assemble s s.input d r) := by
  simp [processTick, hd, hr]

/-- A step in a reset tick (R160). -/
theorem step_of_reset {s : State} (hc : s.cfg.wf = true) (h : s.input.reset = true) :
    step s = .next s.resetTick := by
  simp [step, tick, hc, h]

/-- A step in any other tick (R4). -/
theorem step_of_process {s d r : State} (hc : s.cfg.wf = true) (h : s.input.reset = false)
    (hd : deviceWriteTick s = .next d) (hr : deviceReadTick s = .next r) :
    step s = .next (assemble s s.input d r) := by
  simp [step, tick, hc, h, processTick_eq hd hr]

/-- Everything a step can do: the configuration is well formed, and it is a reset tick or the seven processes'. -/
theorem step_cases {s t : State} (h : step s = .next t) :
    s.cfg.wf = true ∧
      ((s.input.reset = true ∧ t = s.resetTick) ∨
        (s.input.reset = false ∧ ∃ d r, deviceWriteTick s = .next d ∧ deviceReadTick s = .next r ∧
          t = assemble s s.input d r)) := by
  cases hc : s.cfg.wf with
  | false => simp [step, hc] at h
  | true =>
    refine ⟨rfl, ?_⟩
    cases hr : s.input.reset with
    | true =>
      rw [step_of_reset hc hr] at h
      exact .inl ⟨rfl, by simpa using h.symm⟩
    | false =>
      obtain ⟨d, hd⟩ := deviceWriteTick_isNext s
      obtain ⟨r, hr'⟩ := deviceReadTick_isNext s
      rw [step_of_process hc hr hd hr'] at h
      exact .inr ⟨rfl, d, r, hd, hr', by simpa using h.symm⟩

/-- What every step does to the configuration and the inputs. -/
theorem step_cfg_inputs {s t : State} (h : step s = .next t) : t.cfg = s.cfg ∧ t.inputs = s.inputs.tail := by
  rcases (step_cases h).2 with ⟨-, rfl⟩ | ⟨-, d, r, -, -, rfl⟩ <;> exact ⟨rfl, rfl⟩

/-- The input of the state after a step is the next input. -/
theorem step_input {s t : State} (h : step s = .next t) : t.input = s.nextInput :=
  State.input_of_tail (step_cfg_inputs h).2

/-- The inputs of the state after a step are the later inputs. -/
theorem step_inputAt {s t : State} (h : step s = .next t) (k : Nat) : t.inputAt k = s.inputAt (k + 1) :=
  State.inputAt_of_tail (step_cfg_inputs h).2 k

/-! ### The channels, by state -/

section
variable (c : Cfg) (ch : AddrChannel) (valid : Bool) (raw : Nat) (dev : Bool)

theorem AddrChannel.tick_readyHigh (h : ch.state = .readyHigh) :
    ch.tick c valid raw dev = { ch with ready := true, state := .awaitValid } := by
  simp [AddrChannel.tick, h]

theorem AddrChannel.tick_awaitValid (h : ch.state = .awaitValid) :
    ch.tick c valid raw dev =
      if valid then { state := .awaitDeviceReady, ready := false, auxValid := true, addr := xlate c raw } else ch := by
  simp [AddrChannel.tick, h]

theorem AddrChannel.tick_awaitDeviceReady (h : ch.state = .awaitDeviceReady) :
    ch.tick c valid raw dev = if dev then { ch with auxValid := false, state := .readyHigh } else ch := by
  simp [AddrChannel.tick, h]

end

section
variable (s : State) (i : Input)

theorem nextW_readyHigh (h : s.w.state = .readyHigh) :
    nextW s i = { s.w with ready := true, state := .awaitValid } := by
  simp [nextW, h]

theorem nextW_awaitValid (h : s.w.state = .awaitValid) :
    nextW s i =
      if i.wvalid then
        { state := .awaitDeviceReady, ready := false, auxValid := true, data := i.wdata, strb := i.wstrb }
      else s.w := by
  simp [nextW, h]

theorem nextW_awaitDeviceReady (h : s.w.state = .awaitDeviceReady) :
    nextW s i = if s.dw.ready then { s.w with auxValid := false, state := .readyHigh } else s.w := by
  simp [nextW, h]

theorem nextB_collect (h : s.b.state = .collect) :
    nextB s i =
      if s.b.allObserved then { s.b with valid := true, state := .respond }
      else
        { s.b with
          sAwv := sticky s.b.sAwv i.awvalid
          sAwr := sticky s.b.sAwr s.aw.ready
          sWv := sticky s.b.sWv i.wvalid
          sWr := sticky s.b.sWr s.w.ready } := by
  simp [nextB, h]

theorem nextB_respond (h : s.b.state = .respond) :
    nextB s i =
      if i.bready then
        { state := .collect, valid := false, sAwv := false, sAwr := false, sWv := false, sWr := false }
      else s.b := by
  simp [nextB, h]

theorem nextR_idle (h : s.r.state = .idle) :
    nextR s i = if s.dr.ready then { state := .validate, valid := true, data := s.dr.rdata } else s.r := by
  simp [nextR, h]

theorem nextR_validate (h : s.r.state = .validate) :
    nextR s i = if i.rready then { s.r with valid := false, state := .drain } else s.r := by
  simp [nextR, h]

theorem nextR_drain (h : s.r.state = .drain) :
    nextR s i = if s.dr.ready then s.r else { s.r with state := .idle } := by
  simp [nextR, h]

end

/-! ### Runs -/

/-- A property that holds at a state and that every step keeps holds after any run from it. -/
theorem run_keeps {P : State → Prop} (hstep : ∀ s t, P s → step s = .next t → P t) (n : Nat) {s t : State}
    (hs : P s) (h : Host.Core.run Sys2Proof.core n s = .next t) : P t := by
  induction n generalizing s with
  | zero => simp only [Host.Core.run] at h; cases h; exact hs
  | succ n ih =>
    simp only [Host.Core.run] at h
    cases hq : Sys2Proof.core.step s with
    | next s' => rw [hq] at h; exact ih (hstep s s' hs hq) h
    | fault f => rw [hq] at h; cases h
    | refused q => rw [hq] at h; cases h

end Sys2Proof.Machine
end

