-- ==== Sys2Proof/Machine/Master.lean ====
section
/-! DEFINITION. The script notation and the reference master of 30_encoding.md R75 to R77. The master is the bridge's
environment, not part of it: it watches the outputs and drives the inputs. `step` does not use this file
(notes/assumptions/22.md). -/

namespace Sys2Proof.Machine

open Sys2Proof Config

/-- One line of a script (R75). -/
inductive ScriptOp where
  /-- `RESET n`. -/
  | reset (n : Nat)
  /-- `IDLE n`. -/
  | idle (n : Nat)
  /-- `WRITE addr, data, strb, awdelay, wdelay, bdelay`. -/
  | write (addr : Nat) (data : Word) (strb : Strobe) (awdelay wdelay bdelay : Nat)
  /-- `READ addr, ardelay, rdelay`. -/
  | read (addr : Nat) (ardelay rdelay : Nat)
deriving DecidableEq, Repr

/-- `bus(a)`: the bus address of device-local address `a` (R75). -/
def busAddr (c : Cfg) (a : Nat) : Nat := c.base + a

/-- `WRITE addr, data, strb` with every delay at its default (R75). -/
def ScriptOp.plainWrite (addr : Nat) (data : Word) (strb : Strobe) : ScriptOp := .write addr data strb 0 0 0

/-- `READ addr` with every delay at its default (R75). -/
def ScriptOp.plainRead (addr : Nat) : ScriptOp := .read addr 0 0

/-- `WRITEB addr, b` (R77). -/
def ScriptOp.writeb (addr : Nat) (b : Byte) : ScriptOp :=
  .plainWrite addr (b.setWidth 32 <<< (8 * (addr % bpw))) (1#4 <<< (addr % bpw))

/-- `WRITEH addr, h`, `addr` even (R77). -/
def ScriptOp.writeh (addr : Nat) (h : BitVec 16) : ScriptOp :=
  .plainWrite addr (h.setWidth 32 <<< (8 * (addr % bpw))) (3#4 <<< (addr % bpw))

/-- `READB addr` (R77); the byte is `readbResult` of the word read. -/
def ScriptOp.readb (addr : Nat) : ScriptOp := .plainRead addr

/-- `READB`'s result: the lane of the word that the address names (R77). -/
def readbResult (addr : Nat) (rdata : Word) : Byte := lane (addr % bpw) rdata

/-- `TRIGGER` (R77): data `1 << CTRL_BIT`, full strobe. -/
def ScriptOp.trigger (c : Cfg) : ScriptOp := .plainWrite (busAddr c 0) (1#32 <<< ctrlBit) 15#4

/-- `IRQCLR` (R77). -/
def ScriptOp.irqclr (c : Cfg) : ScriptOp := .plainWrite (busAddr c 0) 0#32 15#4

/-- The reference master (R76): the operations left, the running one first; how many ticks it has run; which of its
handshakes it has seen; the tick of the operation in which its response was first valid; the results of the reads so
far. -/
structure Master where
  script : List ScriptOp
  elapsed : Nat
  addrDone : Bool
  dataDone : Bool
  since : Option Nat
  results : List Word
deriving DecidableEq, Repr

/-- The master at the start of a script. -/
def Master.start (script : List ScriptOp) : Master :=
  { script := script, elapsed := 0, addrDone := false, dataDone := false, since := none, results := [] }

/-- `v`, the first tick of the operation in which its response is valid, if there is one by now. -/
def Master.firstValid (m : Master) (valid : Bool) : Option Nat :=
  match m.since with
  | some v => some v
  | none => if valid then some m.elapsed else none

/-- When the master shows `bready` or `rready`: always for delay 0, else from tick `v + delay` on (R76). -/
def Master.responseReady (m : Master) (delay : Nat) (valid : Bool) : Bool :=
  match delay, m.firstValid valid with
  | 0, _ => true
  | _, some v => decide (v + delay ≤ m.elapsed)
  | _, none => false

/-- The inputs the master drives in this tick (R76); inputs not mentioned are 0. -/
def Master.input (m : Master) (o : Output) : Input :=
  match m.script with
  | [] => Input.zero
  | .reset _ :: _ => { Input.zero with reset := true }
  | .idle _ :: _ => Input.zero
  | .write addr data strb awdelay wdelay bdelay :: _ =>
    let av := !m.addrDone && decide (awdelay ≤ m.elapsed)
    let wv := !m.dataDone && decide (wdelay ≤ m.elapsed)
    { Input.zero with
      awvalid := av
      awaddr := if av then addr else 0
      wvalid := wv
      wdata := if wv then data else 0#32
      wstrb := if wv then strb else 0#4
      bready := m.responseReady bdelay o.bvalid }
  | .read addr ardelay rdelay :: _ =>
    let av := !m.addrDone && decide (ardelay ≤ m.elapsed)
    { Input.zero with
      arvalid := av
      araddr := if av then addr else 0
      rready := m.responseReady rdelay o.rvalid }

/-- The running operation has ended; the next one starts at the next tick (R76). -/
def Master.advance (m : Master) (results : List Word) : Master :=
  { Master.start m.script.tail with results := results }

/-- The running operation goes on. -/
def Master.continue (m : Master) (addrSeen dataSeen : Bool) (since : Option Nat) : Master :=
  { m with
    elapsed := m.elapsed + 1
    addrDone := m.addrDone || addrSeen
    dataDone := m.dataDone || dataSeen
    since := since }

/-- The master after this tick (R76). -/
def Master.next (m : Master) (o : Output) : Master :=
  let i := m.input o
  match m.script with
  | [] => m
  | .reset n :: _ => if n ≤ m.elapsed + 1 then m.advance m.results else m.continue false false none
  | .idle n :: _ => if n ≤ m.elapsed + 1 then m.advance m.results else m.continue false false none
  | .write _ _ _ _ _ _ :: _ =>
    if o.bvalid && i.bready then m.advance m.results
    else m.continue (i.awvalid && o.awready) (i.wvalid && o.wready) (m.firstValid o.bvalid)
  | .read _ _ _ :: _ =>
    if o.rvalid && i.rready then m.advance (m.results ++ [o.rdata])
    else m.continue (i.arvalid && o.arready) false (m.firstValid o.rvalid)

/-- One tick of master and bridge together. -/
def masterTick (m : Master) (s : State) : Host.Outcome (Master × State) Fault Refusal :=
  match step { s with inputs := [m.input s.outputs] } with
  | .next t => .next (m.next s.outputs, t)
  | .fault f => .fault f
  | .refused q => .refused q

/-- A number of ticks of master and bridge together. -/
def masterRun : Nat → Master → State → Host.Outcome (Master × State) Fault Refusal
  | 0, m, s => .next (m, s)
  | n + 1, m, s =>
    match masterTick m s with
    | .next (m', s') => masterRun n m' s'
    | .fault f => .fault f
    | .refused q => .refused q

end Sys2Proof.Machine
end

