-- ==== Sys2Proof/Tests/Slice0.lean ====
section
/-! SUPPORT. Tests. Expected results come from spec/ (the vector's section is named) or are worked out from its rules by
hand. The last part shows, for every obligation with hypotheses, states and operands that meet them. -/

namespace Sys2Proof.Tests

open Sys2Proof Sys2Proof.Machine Sys2Proof.Config

/-! ### Ill-formed configurations (R3), one for each check -/

theorem test_wf_reference_configurations : Cfg.ref.wf = true ∧ Cfg.sub.wf = true := by decide

theorem test_wf_data_width : { Cfg.ref with dataWidth := 64 }.widthOk = false := by decide

theorem test_wf_address_width :
    { Cfg.ref with addrWidth := 0 }.addressOk = false ∧ { Cfg.ref with addrWidth := 11 }.addressOk = false ∧
    { Cfg.sub with addrWidth := 12, base := 0x1000 }.addressOk = false := by decide

theorem test_wf_alignment :
    { Cfg.ref with rfileOffset := 0x101 }.alignOk = false ∧ { Cfg.ref with rfileSize := 0x3E }.alignOk = false ∧
    { Cfg.ref with wfileOffset := 0x202 }.alignOk = false ∧ { Cfg.ref with wfileSize := 3 }.alignOk = false ∧
    { Cfg.ref with rfileSize := 0 }.alignOk = false ∧ { Cfg.ref with wfileSize := 0 }.alignOk = false := by decide

theorem test_wf_disjoint :
    { Cfg.ref with rfileOffset := 0x3C }.disjointOk = false ∧ { Cfg.ref with wfileOffset := 0x20 }.disjointOk = false ∧
    { Cfg.ref with wfileOffset := 0x13C }.disjointOk = false ∧
    { Cfg.ref with wfileOffset := 0x140 }.disjointOk = true := by decide

theorem test_wf_inside :
    { Cfg.ref with size := 0x20 }.insideOk = false ∧ { Cfg.ref with rfileOffset := 0xFC4 }.insideOk = false ∧
    { Cfg.ref with wfileOffset := 0xFE4 }.insideOk = false ∧ { Cfg.ref with wfileOffset := 0xFE0 }.insideOk = true := by
  decide

theorem test_wf_policy :
    { Cfg.ref with size := 0x1800, base := 0x18000 }.policyOk = false ∧
    { Cfg.ref with base := 0x40000800 }.policyOk = false := by decide

/-- Each check is part of the whole (R3). -/
theorem test_wf_each_item_counts :
    { Cfg.ref with dataWidth := 64 }.wf = false ∧ { Cfg.ref with addrWidth := 11 }.wf = false ∧
    { Cfg.ref with wfileSize := 3 }.wf = false ∧ { Cfg.ref with wfileOffset := 0x13C }.wf = false ∧
    { Cfg.ref with wfileOffset := 0xFE4 }.wf = false ∧ { Cfg.ref with base := 0x40000800 }.wf = false := by decide

/-! ### Ill-formed operations (R63) -/

theorem test_wf_register_zero_is_control : (Instr.wrReg 0 0#2 0#32 15#4).wf Cfg.ref = false := by decide

theorem test_wf_word_index_in_range :
    (Instr.wrIbuf 16 0#2 0#32 15#4).wf Cfg.ref = false ∧ (Instr.rdIbuf 16 0#2).wf Cfg.ref = false ∧
    (Instr.wrObuf 8 0#2 0#32 15#4).wf Cfg.ref = false ∧ (Instr.rdObuf 8 0#2).wf Cfg.ref = false := by decide

theorem test_wf_unmapped_address :
    (Instr.wrUnmapped 0x3F 0#32 15#4).wf Cfg.ref = false ∧ (Instr.rdUnmapped 0x100).wf Cfg.ref = false ∧
    (Instr.rdUnmapped 0x21F).wf Cfg.ref = false ∧ (Instr.wrUnmapped 0x100000000 0#32 0#4).wf Cfg.ref = false := by
  decide

/-! ### Decoding: bytes written out from the spec's encoding (R61 to R63; 95_test_vectors.md sections 3 and 6) -/

/-- `D` = 0x1_0000_0003, data 0x80000000, strobe 0b1000. -/
theorem test_decode_wrCtrl :
    decode Cfg.ref [0x03#8, 0x00#8, 0x00#8, 0x00#8, 0x01#8, 0x00#8, 0x00#8, 0x00#8, 0x80#8, 0x08#8] =
      .ok (.wrCtrl 3#2 0x80000000#32 8#4, []) := by decide

/-- `D` = 0x1_0000_000E, data 0x11223344, strobe 0b0101; one byte follows. -/
theorem test_decode_wrReg :
    decode Cfg.ref [0x0E#8, 0x00#8, 0x00#8, 0x00#8, 0x01#8, 0x44#8, 0x33#8, 0x22#8, 0x11#8, 0x05#8, 0xFF#8] =
      .ok (.wrReg 3 2#2 0x11223344#32 5#4, [0xFF#8]) := by decide

/-- `D` = 0x1_0000_0105, data 0x0000AB00, strobe 0b0010: word base 0x104, word index 1. -/
theorem test_decode_wrIbuf :
    decode Cfg.ref [0x05#8, 0x01#8, 0x00#8, 0x00#8, 0x01#8, 0x00#8, 0xAB#8, 0x00#8, 0x00#8, 0x02#8] =
      .ok (.wrIbuf 1 1#2 0x0000AB00#32 2#4, []) := by decide

/-- `D` = 0x1_0000_0200, data 0x99999999, full strobe. -/
theorem test_decode_wrObuf :
    decode Cfg.ref [0x00#8, 0x02#8, 0x00#8, 0x00#8, 0x01#8, 0x99#8, 0x99#8, 0x99#8, 0x99#8, 0x0F#8] =
      .ok (.wrObuf 0 0#2 0x99999999#32 15#4, []) := by decide

/-- `D` = 0x1_4000_0004, data 0x00000001, full strobe. -/
theorem test_decode_wrUnmapped :
    decode Cfg.ref [0x04#8, 0x00#8, 0x00#8, 0x40#8, 0x01#8, 0x01#8, 0x00#8, 0x00#8, 0x00#8, 0x0F#8] =
      .ok (.wrUnmapped 0x40000004 1#32 15#4, []) := by decide

/-- `D` = 0x0_0000_000D. -/
theorem test_decode_rdReg :
    decode Cfg.ref [0x0D#8, 0x00#8, 0x00#8, 0x00#8, 0x00#8] = .ok (.rdReg 3 1#2, []) := by decide

/-- `D` = 0x0_0000_021C. -/
theorem test_decode_rdObuf :
    decode Cfg.ref [0x1C#8, 0x02#8, 0x00#8, 0x00#8, 0x00#8] = .ok (.rdObuf 7 0#2, []) := by decide

/-- `D` = 0x0_0000_0100. -/
theorem test_decode_rdIbuf :
    decode Cfg.ref [0x00#8, 0x01#8, 0x00#8, 0x00#8, 0x00#8] = .ok (.rdIbuf 0 0#2, []) := by decide

/-- `D` = 0x0_0000_0220, just past the OutputBuffer. -/
theorem test_decode_rdUnmapped :
    decode Cfg.ref [0x20#8, 0x02#8, 0x00#8, 0x00#8, 0x00#8] = .ok (.rdUnmapped 0x220, []) := by decide

theorem test_decode_truncated :
    decode Cfg.ref [] = .error .truncated ∧ decode Cfg.ref [0x00#8, 0x00#8, 0x00#8, 0x00#8] = .error .truncated ∧
    decode Cfg.ref [0x00#8, 0x00#8, 0x00#8, 0x00#8, 0x01#8, 0x44#8, 0x33#8, 0x22#8, 0x11#8] = .error .truncated := by
  decide

theorem test_decode_reserved_bits :
    decode Cfg.ref [0x00#8, 0x00#8, 0x00#8, 0x00#8, 0x02#8] = .error .reservedBits ∧
    decode Cfg.ref [0x00#8, 0x00#8, 0x00#8, 0x00#8, 0x01#8, 0x44#8, 0x33#8, 0x22#8, 0x11#8, 0x10#8] =
      .error .reservedBits := by decide

/-- 95_test_vectors.md section 3, all fifteen rows, by the table of R63. -/
theorem test_table_rows :
    [0x100000000#33, 0x100000003#33, 0x100000004#33, 0x10000003C#33, 0x100000040#33, 0x100000105#33, 0x100000140#33,
      0x100000200#33, 0x100000220#33, 0x140000004#33, 0x000000000#33, 0x00000000D#33, 0x00000021C#33, 0x000000100#33,
      0x000000800#33].map firstMatch =
    [some "WR_CTRL", some "WR_CTRL", some "WR_REG", some "WR_REG", some "WR_UNMAPPED", some "WR_IBUF",
      some "WR_UNMAPPED", some "WR_OBUF", some "WR_UNMAPPED", some "WR_UNMAPPED", some "RD_REG", some "RD_REG",
      some "RD_OBUF", some "RD_IBUF", some "RD_UNMAPPED"] := by decide

/-! ### Translation, regions, merge (95_test_vectors.md section 2) -/

theorem test_xlate_xor :
    xlate Cfg.ref 0x40000000 = 0 ∧ xlate Cfg.ref 0x40000FFF = 0xFFF ∧ xlate Cfg.ref 0x40001000 = 0x1000 ∧
    xlate Cfg.ref 0x00000004 = 0x40000004 ∧ xlate Cfg.ref 0x3FFFFFFC = 0x7FFFFFFC ∧
    xlate Cfg.ref 0xFFFFFFFF = 0xBFFFFFFF := by decide

theorem test_xlate_subtract :
    xlate Cfg.sub 0x800 = 0 ∧ xlate Cfg.sub 0x814 = 0x14 ∧ xlate Cfg.sub 0xA0C = 0x20C ∧
    xlate Cfg.sub 0x1800 = 0x1000 ∧ xlate Cfg.sub 0x7FF = 0xFFFFFFFF ∧ xlate Cfg.sub 0x14 = 0xFFFFF814 ∧
    xlate Cfg.sub 0xFFFFFFFF = 0xFFFFF7FF := by decide

theorem test_regions :
    [0x000, 0x03F, 0x040, 0x0FF, 0x100, 0x13F, 0x140, 0x1FF, 0x200, 0x21F, 0x220, 0xFFFFFFFF].map (region Cfg.ref) =
    [.reg, .reg, .unmapped, .unmapped, .ibuf, .ibuf, .unmapped, .unmapped, .obuf, .obuf, .unmapped, .unmapped] := by
  decide

theorem test_merge :
    merge 0xDEADBEEF#32 0x11223344#32 8#4 = 0x11ADBEEF#32 ∧ merge 0xDEADBEEF#32 0x11223344#32 1#4 = 0xDEADBE44#32 ∧
    merge 0#32 0xFFFFFFFF#32 10#4 = 0xFF00FF00#32 ∧ merge 0xC0#32 0x80000000#32 8#4 = 0x800000C0#32 := by decide

/-! ### Small states -/

/-- A quiescent bridge (R178) whose register 3 and buffers hold what the vectors of sections 6 and 7 start from. -/
def calm : State :=
  { State.reset with
    aw := { State.reset.aw with state := .awaitValid, ready := true }
    w := { State.reset.w with state := .awaitValid, ready := true }
    ar := { State.reset.ar with state := .awaitValid, ready := true }
    b := { State.reset.b with sAwr := true, sWr := true }
    regs := Vector.replicate 16 0xDEADBEEF#32
    ibuf := [(0, 0xA0#8), (0x1F, 0xBF#8), (0x20, 0xC0#8)]
    obuf := [(5, 0xAB#8), (0x1C, 0x01#8), (0x1D, 0x02#8), (0x1E, 0x03#8), (0x1F, 0x04#8)] }

/-- `calm` with an operation captured, so that its device procedure performs it in this tick. -/
def holding (i : Instr) : State := calm.present (encodeTransaction Cfg.ref i)

/-- `calm` with these inputs coming. -/
def driven (inputs : List Input) : State := { calm with inputs := inputs }

/-- `calm` with a write and a read presented together. -/
def allPresented : State := driven [{ Input.presentWrite 0x40000000 0#32 0#4 with arvalid := true }]

/-- The state after a step. -/
def after (s : State) : State :=
  match step s with
  | .next t => t
  | .fault _ => s
  | .refused _ => s

/-- The state an operation gives. -/
def did (i : Instr) (s : State) : State :=
  match exec i s with
  | .next t => t
  | .fault _ => s
  | .refused _ => s

/-- `regs[0]` = 0xC0 (section 6). -/
def triggered : State := calm.writeReg 0 0xC0#32

/-- A reset tick's input. -/
def resetting : Input := { Input.zero with reset := true }

/-! ### One operation (95_test_vectors.md sections 6 and 7) -/

/-- "upper lane only, address +3": the stored 0xC0 gives `GO`. -/
theorem test_wrCtrl_stored_go :
    (did (.wrCtrl 3#2 0x80000000#32 8#4) triggered).readReg 0 = 0x800000C0#32 ∧
    (did (.wrCtrl 3#2 0x80000000#32 8#4) triggered).dw.state = .compute := by decide

/-- "GO = 0": 0xFFFFFF7F clears `irq` and starts nothing. -/
theorem test_wrCtrl_no_go :
    (did (.wrCtrl 0#2 0xFFFFFF7F#32 15#4) (triggered.setIrq true)).readReg 0 = 0xFFFFFF7F#32 ∧
    (did (.wrCtrl 0#2 0xFFFFFF7F#32 15#4) (triggered.setIrq true)).irq = false ∧
    (did (.wrCtrl 0#2 0xFFFFFF7F#32 15#4) triggered).dw.state = .ack := by decide

/-- "WR_REG, partial": only register 3 moves, under the strobe. -/
theorem test_wrReg_partial :
    (did (.wrReg 3 2#2 0x11223344#32 5#4) calm).readReg 3 = 0xDE22BE44#32 ∧
    (did (.wrReg 3 2#2 0x11223344#32 5#4) calm).readReg 2 = 0xDEADBEEF#32 ∧
    (did (.wrReg 3 2#2 0x11223344#32 5#4) calm).dw = { state := .ack, ready := true } := by decide

/-- "WR_REG, last register", which an always-set bit 7 must not turn into a trigger. -/
theorem test_wrReg_last :
    (did (.wrReg 15 3#2 0x80#32 15#4) calm).readReg 15 = 0x80#32 ∧
    (did (.wrReg 15 3#2 0x80#32 15#4) (calm.setIrq true)).irq = true := by decide

/-- "one byte, unaligned address" goes to offset 5 and nowhere else. -/
theorem test_wrIbuf_one_byte :
    (did (.wrIbuf 1 1#2 0x0000AB00#32 2#4) calm).ibuf =
      [(0, 0xA0#8), (5, 0xAB#8), (0x1F, 0xBF#8), (0x20, 0xC0#8)] := by decide

/-- "last word": bytes 0d f0 fe ca. -/
theorem test_wrIbuf_last_word :
    ([0x3B, 0x3C, 0x3D, 0x3E, 0x3F].map (did (.wrIbuf 15 0#2 0xCAFEF00D#32 15#4) calm).ibuf.read) =
      [0x00#8, 0x0D#8, 0xF0#8, 0xFE#8, 0xCA#8] := by decide

/-- Writing zero where a byte was listed removes its entry: the canonical form. -/
theorem test_wrIbuf_zero_removes :
    (did (.wrIbuf 8 0#2 0#32 1#4) calm).ibuf = [(0, 0xA0#8), (0x1F, 0xBF#8)] := by decide

theorem test_wrObuf_changes_nothing :
    (did (.wrObuf 0 0#2 0x99999999#32 15#4) calm) = calm.completeWrite := by decide

theorem test_wrUnmapped_changes_nothing :
    (did (.wrUnmapped 0x40000004 1#32 15#4) calm) = calm.completeWrite := by decide

/-- "RD_REG, unaligned address": not shifted. -/
theorem test_rdReg_unaligned :
    (did (.rdReg 3 1#2) calm).dr = { state := .ack, ready := true, rdata := 0xDEADBEEF#32 } := by decide

/-- "RD_OBUF, unaligned address" and "last word". -/
theorem test_rdObuf :
    (did (.rdObuf 1 1#2) calm).dr.rdata = 0x0000AB00#32 ∧ (did (.rdObuf 7 0#2) calm).dr.rdata = 0x04030201#32 := by
  decide

/-- The draw is free; that a read makes one, and completes, is not. -/
theorem test_rdIbuf_draws :
    (did (.rdIbuf 0 0#2) calm).draws = 1 ∧ (did (.rdIbuf 0 0#2) calm).dr.ready = true := by decide

theorem test_rdUnmapped_draws :
    (did (.rdUnmapped 0x220) calm).draws = 1 ∧ (did (.rdUnmapped 0x220) calm).ibuf = calm.ibuf := by decide

/-- V-EX: the copy stops at offset 0x1F (`L` = 0x20), overwrites with zeros too, and raises `irq`. -/
theorem test_compute_copies_to_L :
    (computeTick triggered).obuf = [(0, 0xA0#8), (0x1F, 0xBF#8)] ∧ (computeTick triggered).irq = true ∧
    (computeTick triggered).dw = { state := .ack, ready := true } := by decide

/-! ### One tick (95_test_vectors.md sections 4 and 5) -/

theorem test_capture_address :
    (after (driven [{ Input.zero with awvalid := true, awaddr := 0x4000000C }])).aw =
      { state := .awaitDeviceReady, ready := false, auxValid := true, addr := 0xC } := by decide

theorem test_capture_data :
    (after (driven [{ Input.zero with wvalid := true, wdata := 0x11223344#32, wstrb := 5#4 }])).w =
      { state := .awaitDeviceReady, ready := false, auxValid := true, data := 0x11223344#32, strb := 5#4 } := by decide

/-- R90: flags 0000, `awready` = 0, `wready` = 1, `awvalid` = 1 give 1001. -/
theorem test_sticky_flags :
    nextB { calm with aw := State.reset.aw, b := State.reset.b } { Input.zero with awvalid := true } =
      { State.reset.b with sAwv := true, sWr := true } := by decide

/-- A captured write is performed by the step, and the device's ready is up after it (R110, R113). -/
theorem test_step_performs_write :
    (after (holding (.wrReg 3 2#2 0x11223344#32 5#4))).readReg 3 = 0xDE22BE44#32 ∧
    (after (holding (.wrReg 3 2#2 0x11223344#32 5#4))).dw.ready = true := by decide

/-- The placed word 0x1_0000_000C (no data, no strobe bits in the table's word) is what the next step performs. -/
theorem test_placed_word :
    (after (State.reset.withFetchWord 40 0x10000000C)).dw = { state := .ack, ready := true } ∧
    (after (State.reset.withFetchWord 40 0x00000000C)).dr.ready = true := by decide

/-- The script notation of R77: `WRITEB` at local 0x105 is data 0x0000AB00, strobe 0b0010 (program B, line 2). -/
theorem test_writeb :
    ScriptOp.writeb 0x40000105 0xAB#8 = .plainWrite 0x40000105 0x0000AB00#32 2#4 ∧
    ScriptOp.trigger Cfg.ref = .plainWrite 0x40000000 0x80#32 15#4 := by decide

/-! ### Witnesses: hypotheses of the obligations, met -/

theorem witness_DecodeAfterEncode :
    Cfg.ref.wf = true ∧
    [Instr.wrCtrl 3#2 1#32 15#4, .wrReg 15 3#2 1#32 15#4, .wrIbuf 15 3#2 1#32 15#4, .wrObuf 7 3#2 1#32 15#4,
      .wrUnmapped 0xFFFFFFFF 1#32 15#4, .rdReg 15 3#2, .rdObuf 7 3#2, .rdIbuf 15 3#2, .rdUnmapped 0x40].all
      (Instr.wf Cfg.ref) = true := by decide

theorem witness_DecodedBytes :
    Cfg.sub.wf = true ∧
    decode Cfg.sub [0xFF#8, 0xFF#8, 0xFF#8, 0xFF#8, 0x01#8, 1#8, 2#8, 3#8, 4#8, 0x0F#8, 7#8] =
      .ok (.wrUnmapped 0xFFFFFFFF 0x04030201#32 15#4, [7#8]) := by decide

/-- Both directions, at the first and the last decode word of each. -/
theorem witness_FirstMatchingRow :
    (0x100000000#33).getLsbD 32 = true ∧ (0x1FFFFFFFF#33).getLsbD 32 = true ∧
    (0x000000000#33).getLsbD 32 = false ∧ (0x0FFFFFFFF#33).getLsbD 32 = false := by decide

theorem witness_EveryTransaction : Cfg.sub.wf = true ∧ 0xFFFFFFFF < 2 ^ Cfg.sub.addrWidth := by decide

theorem witness_LowAddressBits : Cfg.ref.wf = true := by decide

theorem witness_TranslationSubtractsBase :
    (Cfg.ref.wf = true ∧ Cfg.ref.base ≤ 0x40000FFF ∧ 0x40000FFF < Cfg.ref.base + Cfg.ref.size ∧
      0x40000FFF < 2 ^ Cfg.ref.addrWidth) ∧
    (Cfg.sub.wf = true ∧ Cfg.sub.base ≤ 0x800 ∧ 0x800 < Cfg.sub.base + Cfg.sub.size ∧
      0x800 < 2 ^ Cfg.sub.addrWidth) := by decide

theorem witness_OutOfWindow :
    (Cfg.ref.wf = true ∧ Cfg.ref.base + Cfg.ref.size ≤ 2 ^ Cfg.ref.addrWidth ∧ 0x40001000 < 2 ^ Cfg.ref.addrWidth ∧
      ¬ (Cfg.ref.base ≤ 0x40001000 ∧ 0x40001000 < Cfg.ref.base + Cfg.ref.size)) ∧
    (Cfg.sub.wf = true ∧ Cfg.sub.base + Cfg.sub.size ≤ 2 ^ Cfg.sub.addrWidth ∧ 0x7FF < 2 ^ Cfg.sub.addrWidth ∧
      ¬ (Cfg.sub.base ≤ 0x7FF ∧ 0x7FF < Cfg.sub.base + Cfg.sub.size)) := by decide

theorem witness_WrCtrlWithGo : goBit (merge (triggered.readReg 0) 0#32 14#4) = true := by decide

theorem witness_WrCtrlWithoutGo : goBit (merge (triggered.readReg 0) 0#32 1#4) = false := by decide

/-- Both forms of the first hypothesis, at their last word and last address. -/
theorem witness_WrObufAndWrUnmapped :
    ((∃ k low data strb, Instr.wrObuf 7 3#2 0#32 0#4 = .wrObuf k low data strb) ∨
      (∃ a data strb, Instr.wrObuf 7 3#2 0#32 0#4 = .wrUnmapped a data strb)) ∧
    ((∃ k low data strb, Instr.wrUnmapped 0xFFFFFFFF 0#32 0#4 = .wrObuf k low data strb) ∨
      (∃ a data strb, Instr.wrUnmapped 0xFFFFFFFF 0#32 0#4 = .wrUnmapped a data strb)) :=
  ⟨.inl ⟨_, _, _, _, rfl⟩, .inr ⟨_, _, _, rfl⟩⟩

/-- A write of each direction's kind, and both stored `GO` values for the empty strobe. -/
theorem witness_EveryStrobe :
    [Instr.wrCtrl 0#2 0#32 0#4, .wrReg 1 0#2 0#32 5#4, .wrIbuf 0 0#2 0#32 0#4, .wrObuf 0 0#2 0#32 15#4,
      .wrUnmapped 0x40 0#32 8#4].all Instr.isWrite = true ∧
    ((∃ idx low data, Instr.wrReg 1 3#2 1#32 0#4 = .wrReg idx low data 0#4) ∨
      (∃ k low data, Instr.wrReg 1 3#2 1#32 0#4 = .wrIbuf k low data 0#4)) ∧
    ((∃ idx low data, Instr.wrIbuf 15 3#2 1#32 0#4 = .wrReg idx low data 0#4) ∨
      (∃ k low data, Instr.wrIbuf 15 3#2 1#32 0#4 = .wrIbuf k low data 0#4)) ∧
    goBit (triggered.readReg 0) = true ∧ goBit ((triggered.writeReg 0 0x40#32).readReg 0) = false :=
  ⟨by decide, .inl ⟨_, _, _, rfl⟩, .inr ⟨_, _, _, rfl⟩, by decide, by decide⟩

/-- The empty strobe and a partial one have lanes that are not enabled. -/
theorem witness_PartialStrobe : (0#4).getLsbD 3 = false ∧ (5#4).getLsbD (0x3F % 4) = false := by decide

theorem witness_RdIbufAndRdUnmapped :
    ((∃ k low, Instr.rdIbuf 15 3#2 = .rdIbuf k low) ∨ (∃ a, Instr.rdIbuf 15 3#2 = .rdUnmapped a)) ∧
    ((∃ k low, Instr.rdUnmapped 0x40 = .rdIbuf k low) ∨ (∃ a, Instr.rdUnmapped 0x40 = .rdUnmapped a)) :=
  ⟨.inl ⟨_, _, rfl⟩, .inr ⟨_, rfl⟩⟩

theorem witness_ReadsHaveNoSideEffects :
    [Instr.rdReg 15 3#2, .rdObuf 7 0#2, .rdIbuf 0 0#2, .rdUnmapped 0x220].all (fun i => !i.isWrite) = true := by decide

/-- With nothing asked of the read procedure. -/
theorem witness_StepPerformsTheCapturedWrite :
    (holding (.wrIbuf 15 3#2 1#32 15#4)).cfg.wf = true ∧ (holding (.wrIbuf 15 3#2 1#32 15#4)).AddressesOk ∧
    (holding (.wrIbuf 15 3#2 1#32 15#4)).input.reset = false ∧
    (holding (.wrIbuf 15 3#2 1#32 15#4)).dw.state = .idle ∧ (holding (.wrIbuf 15 3#2 1#32 15#4)).devWvalid = true ∧
    decode Cfg.ref ((Transaction.write 0x13F 1#32 15#4).bytes Cfg.ref) = .ok (.wrIbuf 15 3#2 1#32 15#4, []) ∧
    (holding (.wrIbuf 15 3#2 1#32 15#4)).aw.addr = 0x13F ∧
    (holding (.wrIbuf 15 3#2 1#32 15#4)).dr.state = .idle ∧
    (holding (.wrIbuf 15 3#2 1#32 15#4)).ar.auxValid = false := by decide

theorem witness_StepPerformsTheCapturedRead :
    (holding (.rdObuf 7 3#2)).cfg.wf = true ∧ (holding (.rdObuf 7 3#2)).AddressesOk ∧
    (holding (.rdObuf 7 3#2)).input.reset = false ∧ (holding (.rdObuf 7 3#2)).dr.state = .idle ∧
    (holding (.rdObuf 7 3#2)).ar.auxValid = true ∧
    decode Cfg.ref ((Transaction.read 0x21F).bytes Cfg.ref) = .ok (.rdObuf 7 3#2, []) ∧
    (holding (.rdObuf 7 3#2)).ar.addr = 0x21F ∧ (holding (.rdObuf 7 3#2)).dw.state = .idle ∧
    (holding (.rdObuf 7 3#2)).devWvalid = false := by decide

theorem witness_PlacedWord :
    decodeTableWord 40 0x10000003C = some (.wrReg 15 0#2 0#32 0#4) ∧
    decodeTableWord 40 0x0FFFFFFFF = some (.rdUnmapped 0xFFFFFFFF) := by decide

theorem witness_StepIsRefused :
    State.reset.cfg.wf = true ∧ { State.reset with cfg := { Cfg.ref with dataWidth := 64 } }.cfg.wf = false := by decide

/-- The state after reset is in `READY_HIGH` in all three channels. -/
theorem witness_ReadyHigh :
    State.reset.cfg.wf = true ∧ State.reset.Coherent ∧ State.reset.input.reset = false ∧
    State.reset.aw.state = .readyHigh ∧ State.reset.w.state = .readyHigh ∧ State.reset.ar.state = .readyHigh := by decide

/-- A bridge in which every channel waits for the device, whose readies are up. -/
def released : State :=
  { calm with
    aw := { state := .awaitDeviceReady, ready := false, auxValid := true, addr := 0xFFFFFFFF }
    w := { state := .awaitDeviceReady, ready := false, auxValid := true, data := 0#32, strb := 0#4 }
    ar := { state := .awaitDeviceReady, ready := false, auxValid := true, addr := 0xFFFFFFFF }
    dw := { state := .ack, ready := true }
    dr := { state := .ack, ready := true, rdata := 0xDEADBEEF#32 } }

/-- The address and data channels' states: waiting for a valid that comes and one that does not; waiting for the device
with its ready up and down. -/
theorem witness_AddressAndDataChannels :
    allPresented.aw.state = .awaitValid ∧
    allPresented.w.state = .awaitValid ∧
    allPresented.ar.state = .awaitValid ∧
    calm.input.awvalid = false ∧ calm.input.wvalid = false ∧ calm.input.arvalid = false ∧
    released.aw.state = .awaitDeviceReady ∧ released.dw.ready = true ∧ released.dr.ready = true ∧
    (holding (.wrCtrl 0#2 0#32 0#4)).w.state = .awaitDeviceReady ∧
    (holding (.wrCtrl 0#2 0#32 0#4)).dw.ready = false ∧
    (holding (.rdReg 0 0#2)).ar.state = .awaitDeviceReady ∧ (holding (.rdReg 0 0#2)).dr.ready = false ∧
    calm.cfg.wf = true ∧ calm.input.reset = false ∧ released.cfg.wf = true ∧ released.input.reset = false := by decide

/-- Three flags of four, all four, and the response held. -/
theorem witness_ResponseChannel :
    calm.b.state = .collect ∧
    { calm.b with sAwv := true }.allObserved = false ∧ { calm.b with sAwv := true, sWv := true }.allObserved = true ∧
    ({ calm with b := { calm.b with state := .respond, valid := true } }).input.bready = false ∧
    (driven [Input.zero.acceptingResponse]).input.bready = true ∧ calm.cfg.wf = true ∧
    (driven [Input.zero.acceptingResponse]).input.reset = false := by decide

/-- `calm` with the read-data channel in a given state and the device's ready given. -/
def reading (st : ReadState) (rready ready : Bool) : State :=
  { calm with
    inputs := [{ Input.zero with rready := rready }]
    r := { state := st, valid := decide (st = .validate), data := 0#32 }
    dr := { state := .idle, ready := ready, rdata := 0xDEADBEEF#32 } }

theorem witness_ReadDataChannel :
    (reading .idle true true).dr.ready = true ∧ (reading .idle true false).dr.ready = false ∧
    (reading .validate true true).input.rready = true ∧ (reading .validate false true).input.rready = false ∧
    (reading .drain false false).r.state = .drain ∧ (reading .drain false true).dr.ready = true ∧
    (reading .drain false false).cfg.wf = true ∧ (reading .drain false false).input.reset = false := by decide

/-- The request still up, and fallen. -/
theorem witness_DeviceReadies :
    (released.dw.state = .ack ∧ released.devWvalid = true ∧ released.dr.state = .ack ∧ released.ar.auxValid = true) ∧
    ({ released with aw := calm.aw, ar := calm.ar }.dw.state = .ack ∧
      { released with aw := calm.aw, ar := calm.ar }.devWvalid = false ∧
      { released with aw := calm.aw, ar := calm.ar }.ar.auxValid = false) ∧
    released.cfg.wf = true ∧ released.input.reset = false := by decide

/-- In the compute step, all invariants met. -/
def computing : State := after (holding (.wrCtrl 0#2 0x80#32 1#4))

theorem witness_Compute :
    computing.cfg.wf = true ∧ computing.input.reset = false ∧ computing.dw.state = .compute ∧ computing.Inv := by decide

/-- A reset tick with a write presented in it, then one without reset. -/
theorem witness_ResetTick :
    (driven [resetting, Input.zero]).cfg.wf = true ∧ (driven [resetting, Input.zero]).input.reset = true ∧
    step (driven [resetting, Input.zero]) = .next (driven [resetting, Input.zero]).resetTick ∧
    (driven [resetting, Input.zero]).resetTick.input.reset = false :=
  ⟨by decide, by decide, rfl, by decide⟩

/-- Two states that differ, and agree on all that one process owns and reads: for `DW` and `DR` the read side and the
write side differ; for the channels the registers do. -/
theorem witness_EachProcess :
    ((holding (.rdReg 0 0#2)).cfg = calm.cfg ∧ (holding (.rdReg 0 0#2)).input.reset = false ∧
      (holding (.rdReg 0 0#2)).dw = calm.dw ∧ (holding (.rdReg 0 0#2)).regs = calm.regs ∧
      (holding (.rdReg 0 0#2)).ibuf = calm.ibuf ∧ (holding (.rdReg 0 0#2)).obuf = calm.obuf ∧
      (holding (.rdReg 0 0#2)).irq = calm.irq ∧ (holding (.rdReg 0 0#2)).aw = calm.aw ∧
      (holding (.rdReg 0 0#2)).w = calm.w ∧ (holding (.rdReg 0 0#2)).b = calm.b ∧ (holding (.rdReg 0 0#2)).r = calm.r ∧
      (holding (.rdReg 0 0#2)).ar ≠ calm.ar) ∧
    ((holding (.wrReg 1 0#2 0#32 1#4)).dr = calm.dr ∧ (holding (.wrReg 1 0#2 0#32 1#4)).draws = calm.draws ∧
      (holding (.wrReg 1 0#2 0#32 1#4)).ar = calm.ar ∧ (holding (.wrReg 1 0#2 0#32 1#4)).regs = calm.regs ∧
      (holding (.wrReg 1 0#2 0#32 1#4)).obuf = calm.obuf ∧ (holding (.wrReg 1 0#2 0#32 1#4)).aw ≠ calm.aw) ∧
    step (holding (.rdReg 0 0#2)) = .next (after (holding (.rdReg 0 0#2))) ∧
    step (holding (.wrReg 1 0#2 0#32 1#4)) = .next (after (holding (.wrReg 1 0#2 0#32 1#4))) ∧
    step calm = .next (after calm) :=
  ⟨by decide, by decide, rfl, rfl, rfl⟩

theorem witness_EveryStepKeepsTheInvariant :
    (holding (.wrCtrl 0#2 0x80#32 1#4)).Inv ∧ step (holding (.wrCtrl 0#2 0x80#32 1#4)) = .next computing :=
  ⟨by decide, rfl⟩

/-- An agreeing line, and a register-0 write at the last address of the word. -/
theorem witness_InterruptFollows :
    (holding (.wrCtrl 3#2 0#32 1#4)).TriggerOk ∧ (holding (.wrCtrl 3#2 0#32 1#4)).input.reset = false ∧
    step (holding (.wrCtrl 3#2 0#32 1#4)) = .next (after (holding (.wrCtrl 3#2 0#32 1#4))) ∧
    (holding (.wrCtrl 3#2 0#32 1#4)).dw.state = .idle ∧ (holding (.wrCtrl 3#2 0#32 1#4)).devWvalid = true ∧
    (holding (.wrCtrl 3#2 0#32 1#4)).aw.addr = 3 ∧
    ((holding (.wrCtrl 3#2 0#32 1#4)).setIrq true).IrqAgrees :=
  ⟨by decide, by decide, rfl, by decide, by decide, by decide, by decide⟩

/-- `irq` rises after the compute step; it falls by a register-0 write and by reset. -/
theorem witness_OnlyControlWrites :
    (step computing = .next (after computing) ∧ (after computing).irq ≠ computing.irq) ∧
    (step ((holding (.wrCtrl 3#2 0#32 1#4)).setIrq true) = .next (after ((holding (.wrCtrl 3#2 0#32 1#4)).setIrq true)) ∧
      (after ((holding (.wrCtrl 3#2 0#32 1#4)).setIrq true)).irq = false) ∧
    (step ((driven [resetting]).setIrq true) = .next ((driven [resetting]).setIrq true).resetTick ∧
      ((driven [resetting]).setIrq true).resetTick.irq = false) :=
  ⟨⟨rfl, by decide⟩, ⟨rfl, by decide⟩, ⟨rfl, by decide⟩⟩

/-- A register, an InputBuffer byte and an OutputBuffer byte that change. -/
theorem witness_StorageChanges :
    (after (holding (.wrReg 15 3#2 0#32 15#4))).readReg 15 ≠ (holding (.wrReg 15 3#2 0#32 15#4)).readReg 15 ∧
    (after (holding (.wrIbuf 15 0#2 0xFF000000#32 15#4))).ibuf.read 0x3F ≠
      (holding (.wrIbuf 15 0#2 0xFF000000#32 15#4)).ibuf.read 0x3F ∧
    (after computing).obuf.read 0x1F ≠ computing.obuf.read 0x1F ∧
    computing.input.reset = false ∧ (holding (.wrReg 15 3#2 0#32 15#4)).input.reset = false ∧
    (holding (.wrIbuf 15 0#2 0xFF000000#32 15#4)).input.reset = false := by decide

/-- Every process changes its state in some step. -/
theorem witness_ControlTransfers :
    (after State.reset).aw.state ≠ State.reset.aw.state ∧ (after State.reset).w.state ≠ State.reset.w.state ∧
    (after State.reset).ar.state ≠ State.reset.ar.state ∧
    (after { released with b := { calm.b with sAwv := true, sWv := true } }).b.state ≠ .collect ∧
    (after released).r.state ≠ released.r.state ∧ computing.dw.state ≠ .idle ∧
    (after (holding (.rdReg 0 0#2))).dr.state ≠ .idle ∧ State.reset.input.reset = false ∧
    released.input.reset = false := by decide

/-- Both valids rise in one step. -/
theorem witness_DeviceIsIdle :
    allPresented.Inv ∧
    allPresented.devWvalid = false ∧
    (after allPresented).devWvalid = true ∧
    (after allPresented).ar.auxValid = true := by decide

/-- From reset, with a write whose address comes first. -/
def addressFirst : State := { State.reset with inputs :=
  [{ Input.zero with awvalid := true, awaddr := 0x40000004 }, { Input.zero with awvalid := true, awaddr := 0x40000004 },
   { Input.zero with wvalid := true, wdata := 0xAAAAAAAA#32, wstrb := 15#4 }] }

theorem witness_ConformantResponse :
    addressFirst.Inv ∧ addressFirst.ResponseOk ∧ addressFirst.MasterHolds ∧ addressFirst.OneWrite ∧
    step addressFirst = .next (after addressFirst) ∧
    (after addressFirst).Inv ∧ (after addressFirst).ResponseOk ∧ (after addressFirst).MasterHolds ∧
    (after addressFirst).OneWrite :=
  ⟨by decide, by decide, by decide, by decide, rfl, by decide, by decide, by decide, by decide⟩

/-- Four ticks after `addressFirst`'s start the response rises. -/
theorem witness_ResponseRises :
    (after (after (after addressFirst))).Inv ∧ (after (after (after addressFirst))).ResponseOk ∧
    (after (after (after addressFirst))).b.valid = false ∧
    (after (after (after (after addressFirst)))).b.valid = true :=
  ⟨by decide, by decide, by decide, by decide⟩

theorem witness_EveryCapturedWrite :
    (after (after (after addressFirst))).input.reset = false ∧ (after (after (after addressFirst))).devWvalid = true ∧
    (after (after (after addressFirst))).dw.state = .idle := by decide

/-- A captured read, and a held read response. -/
theorem witness_ConformantRead :
    ((holding (.rdReg 15 3#2)).Inv ∧ (holding (.rdReg 15 3#2)).ReadOk ∧ (holding (.rdReg 15 3#2)).OneRead) ∧
    ((reading .validate true false).Inv ∧ (reading .validate true false).ReadOk ∧
      (reading .validate true false).OneRead) :=
  ⟨⟨by decide, by decide, by decide⟩, ⟨by decide, by decide, by decide⟩⟩

theorem witness_EveryCapturedRead :
    (holding (.rdReg 15 3#2)).input.reset = false ∧ (holding (.rdReg 15 3#2)).nextInput.reset = false ∧
    (holding (.rdReg 15 3#2)).ar.auxValid = true ∧ (holding (.rdReg 15 3#2)).dr.state = .idle := by decide

/-- All three handshakes in one tick, in a state of the invariant. -/
theorem witness_ReadyStaysLow :
    allPresented.cfg.wf = true ∧ allPresented.Coherent ∧ allPresented.Inv ∧ allPresented.input.reset = false ∧
    allPresented.nextInput.reset = false ∧ allPresented.awHandshake = true ∧ allPresented.wHandshake = true ∧
    allPresented.arHandshake = true :=
  ⟨by decide, by decide, by decide, by decide, by decide, by decide, by decide, by decide⟩

theorem throughout_one {s : State} {P : State → Prop} (h : P s) : Throughout 1 s P := by
  intro k u hk hu
  obtain rfl : k = 0 := by omega
  cases hu
  exact h

/-- A held write response with a read response held beside it, and channels that wait; nothing answers. -/
def waiting : State :=
  { calm with
    b := { calm.b with state := .respond, valid := true, sAwv := true, sWv := true }
    r := { state := .validate, valid := true, data := 5#32 } }

/-- The waiting states for a master that does nothing, over one tick. -/
theorem witness_WaitsOnTheMaster :
    waiting.cfg.wf = true ∧ Throughout 1 waiting (fun u => u.input.reset = false) ∧
    (waiting.aw.state = .awaitValid ∧ Throughout 1 waiting (fun u => u.input.awvalid = false)) ∧
    (waiting.w.state = .awaitValid ∧ Throughout 1 waiting (fun u => u.input.wvalid = false)) ∧
    (waiting.ar.state = .awaitValid ∧ Throughout 1 waiting (fun u => u.input.arvalid = false)) ∧
    (waiting.b.state = .respond ∧ Throughout 1 waiting (fun u => u.input.bready = false)) ∧
    (waiting.r.state = .validate ∧ Throughout 1 waiting (fun u => u.input.rready = false)) :=
  ⟨by decide, throughout_one (by decide), ⟨by decide, throughout_one (by decide)⟩,
    ⟨by decide, throughout_one (by decide)⟩, ⟨by decide, throughout_one (by decide)⟩,
    ⟨by decide, throughout_one (by decide)⟩, ⟨by decide, throughout_one (by decide)⟩⟩

/-- Every channel holds a captured item, and the device has not answered. -/
def unanswered : State := { released with dw := calm.dw, dr := calm.dr }

/-- The waiting states for an internal signal, over one tick. -/
theorem witness_WaitsOnSignals :
    (unanswered.aw.state = .awaitDeviceReady ∧ unanswered.w.state = .awaitDeviceReady ∧
      Throughout 1 unanswered (fun u => u.dw.ready = false)) ∧
    (unanswered.ar.state = .awaitDeviceReady ∧ unanswered.r.state = .idle ∧
      Throughout 1 unanswered (fun u => u.dr.ready = false)) ∧
    (calm.b.state = .collect ∧ Throughout 1 calm (fun u => u.b.allObserved = false)) ∧
    (calm.dw.state = .idle ∧ Throughout 1 calm (fun u => u.devWvalid = false)) ∧
    (calm.dr.state = .idle ∧ Throughout 1 calm (fun u => u.ar.auxValid = false)) ∧
    (released.dw.state = .ack ∧ Throughout 1 released (fun u => u.devWvalid = true)) ∧
    (released.dr.state = .ack ∧ Throughout 1 released (fun u => u.ar.auxValid = true)) ∧
    ((reading .drain false true).r.state = .drain ∧
      Throughout 1 (reading .drain false true) (fun u => u.dr.ready = true)) :=
  ⟨⟨by decide, by decide, throughout_one (by decide)⟩, ⟨by decide, by decide, throughout_one (by decide)⟩,
    ⟨by decide, throughout_one (by decide)⟩, ⟨by decide, throughout_one (by decide)⟩,
    ⟨by decide, throughout_one (by decide)⟩, ⟨by decide, throughout_one (by decide)⟩,
    ⟨by decide, throughout_one (by decide)⟩, ⟨by decide, throughout_one (by decide)⟩⟩

theorem witness_Trigger :
    (holding (.wrCtrl 3#2 0x80#32 1#4)).cfg.wf = true ∧ (holding (.wrCtrl 3#2 0x80#32 1#4)).input.reset = false ∧
    (holding (.wrCtrl 3#2 0x80#32 1#4)).nextInput.reset = false ∧
    (holding (.wrCtrl 3#2 0x80#32 1#4)).dw.state = .idle ∧ (holding (.wrCtrl 3#2 0x80#32 1#4)).devWvalid = true ∧
    (holding (.wrCtrl 3#2 0x80#32 1#4)).aw.addr < bpw ∧
    goBit (merge ((holding (.wrCtrl 3#2 0x80#32 1#4)).readReg 0) 0x80#32 1#4) = true := by decide

/-- The three inputs of the round trip, at the last address of the last register, under a partial and the full strobe. -/
def roundTrip (strb : Strobe) : State :=
  driven [Input.presentWrite 0x4000003F 0x0F0F0F0F#32 strb, Input.zero,
    (Input.presentRead 0x4000003F).acceptingResponse]

theorem witness_WrittenRegister :
    ((roundTrip 5#4).cfg.wf = true ∧ (roundTrip 5#4).Quiescent ∧
      (roundTrip 5#4).inputs = [Input.presentWrite 0x4000003F 0x0F0F0F0F#32 5#4, Input.zero,
        (Input.presentRead 0x4000003F).acceptingResponse]) ∧
    ((roundTrip 15#4).Quiescent ∧
      (roundTrip 15#4).inputs = [Input.presentWrite 0x4000003F 0x0F0F0F0F#32 15#4, Input.zero,
        (Input.presentRead 0x4000003F).acceptingResponse]) ∧
    xlate (roundTrip 5#4).cfg 0x4000003F = bpw * (15 : Fin 16).val + (3#2).toNat := by decide

/-- The seven inputs of the copy-through, at the last offset both buffers have. -/
def copyThrough : State :=
  driven [Input.presentWrite 0x4000011F ((0xAB#8).setWidth 32 <<< (8 * (0x1F % bpw))) (1#4 <<< (0x1F % bpw)),
    Input.zero, Input.zero.acceptingResponse, Input.zero, Input.presentWrite 0x40000003 0x80#32 15#4, Input.zero,
    (Input.presentRead 0x4000021F).acceptingResponse]

theorem witness_WrittenByte :
    copyThrough.cfg.wf = true ∧ copyThrough.Quiescent ∧
    0x1F < min copyThrough.cfg.rfileSize copyThrough.cfg.wfileSize ∧
    xlate copyThrough.cfg 0x4000011F = copyThrough.cfg.rfileOffset + 0x1F ∧ xlate copyThrough.cfg 0x40000003 < bpw ∧
    xlate copyThrough.cfg 0x4000021F = copyThrough.cfg.wfileOffset + 0x1F ∧ goBit 0x80#32 = true ∧
    copyThrough.inputs =
      [Input.presentWrite 0x4000011F ((0xAB#8).setWidth 32 <<< (8 * (0x1F % bpw))) (1#4 <<< (0x1F % bpw)),
       Input.zero, Input.zero.acceptingResponse, Input.zero, Input.presentWrite 0x40000003 0x80#32 15#4, Input.zero,
       (Input.presentRead 0x4000021F).acceptingResponse] := by decide

/-- A write and a read of one register captured together. -/
def both : State := (holding (.wrReg 15 0#2 1#32 15#4)).present (.read 0x3F)

theorem witness_SameTick :
    both.cfg.wf = true ∧ both.input.reset = false ∧ both.dw.state = .idle ∧ both.devWvalid = true ∧
    both.dr.state = .idle ∧ both.ar.auxValid = true ∧ both.aw.addr < regSpan ∧ both.ar.addr < regSpan ∧
    regIndex both.ar.addr = regIndex both.aw.addr := by decide

theorem witness_Quiescent : calm.cfg.wf = true ∧ calm.Quiescent ∧ calm.inputs = [] := by decide

/-- A busy bridge that is reset, then left alone for two ticks; the master's readies do not matter. -/
def resetWhileBusy : State :=
  { released with inputs := [resetting, { Input.zero with bready := true }, { Input.zero with rready := true }] }

theorem witness_ResetSettles :
    resetWhileBusy.cfg.wf = true ∧ resetWhileBusy.input.reset = true ∧ (resetWhileBusy.inputAt 1).Silent ∧
    (resetWhileBusy.inputAt 2).Silent := by decide

/-- R161: ready outputs are first 1 two ticks after the last reset tick; nothing has been presented. -/
theorem test_reset_state_settles :
    (after (after State.reset)).Quiescent ∧ (after State.reset).aw.ready = true := by decide

end Sys2Proof.Tests
end

/-! PROOFS. The registers as plain storage (10_state.md R24, 42_device_write.md R113, 43_device_read.md R131): how a
register reads after a merge and after a completion, what `WR_REG` and `RD_REG` are, and what their completions leave
alone. -/

namespace Sys2Proof.Machine

open Sys2Proof Config

/-! ### Registers as they read -/

/-- A register read after a strobed merge: only the register addressed moves (R113). -/
@[simp] theorem State.readReg_mergeReg (s : State) (idx j : Fin 16) (data : Word) (strb : Strobe) :
    (s.mergeReg idx data strb).readReg j = if idx = j then merge (s.readReg idx) data strb else s.readReg j :=
  s.readReg_writeReg idx j _

@[simp] theorem State.readReg_completeWrite (s : State) (j : Fin 16) : s.completeWrite.readReg j = s.readReg j :=
  State.readReg_congr s.completeWrite_regs j

@[simp] theorem State.readReg_completeRead (s : State) (v : Word) (j : Fin 16) :
    (s.completeRead v).readReg j = s.readReg j :=
  State.readReg_congr (s.completeRead_regs v) j

/-! ### The two register operations, and what their completions leave alone -/

theorem exec_wrReg (idx : Fin 16) (low : LowBits) (data : Word) (strb : Strobe) (s : State) :
    exec (.wrReg idx low data strb) s = .next (s.mergeReg idx data strb).completeWrite := rfl

theorem exec_rdReg (idx : Fin 16) (low : LowBits) (s : State) :
    exec (.rdReg idx low) s = .next (s.completeRead (s.readReg idx)) := rfl

/-- A completed read presents its result; it draws nothing and assigns nothing outside the read procedure (R130,
R137). -/
theorem State.completeRead_frame (s : State) (v : Word) :
    (s.completeRead v).ReadDone v ∧ (s.completeRead v).draws = s.draws ∧ s.SameRegs (s.completeRead v) ∧
      s.SameBytes (s.completeRead v) ∧ (s.completeRead v).irq = s.irq ∧ (s.completeRead v).dw = s.dw ∧
      s.SameChannels (s.completeRead v) :=
  ⟨⟨rfl, rfl, rfl⟩, rfl, s.readReg_completeRead v, fun _ => ⟨rfl, rfl⟩, rfl, rfl, rfl, rfl, rfl, rfl, rfl, rfl, rfl⟩

/-- A register merge, completed as a write: what it leaves alone outside the registers (R110, R113). -/
theorem State.mergeReg_completeWrite_frame (s : State) (idx : Fin 16) (data : Word) (strb : Strobe) :
    (s.mergeReg idx data strb).completeWrite.irq = s.irq ∧ (s.mergeReg idx data strb).completeWrite.WriteDone ∧
      s.SameBytes (s.mergeReg idx data strb).completeWrite ∧
      s.SameReadProc (s.mergeReg idx data strb).completeWrite ∧
      s.SameChannels (s.mergeReg idx data strb).completeWrite :=
  ⟨rfl, ⟨rfl, rfl⟩, fun _ => ⟨rfl, rfl⟩, ⟨rfl, rfl⟩, rfl, rfl, rfl, rfl, rfl, rfl, rfl⟩

/-- Settles O15: `WR_REG` is a merge and a completion. The merged register reads back because the completion assigns no
register; the read that follows is a completion of its own, which assigns no storage. -/
theorem wrRegMergesIntoOneRegister : Obligations.WrRegMergesIntoOneRegister := by
  intro idx low data strb s
  have merged : (s.mergeReg idx data strb).completeWrite.readReg idx = merge (s.readReg idx) data strb := by simp
  have others (j : Fin 16) (hj : j ≠ idx) : (s.mergeReg idx data strb).completeWrite.readReg j = s.readReg j := by
    simp [hj.symm]
  obtain ⟨hirq, hdone, hbytes, hread, hchan⟩ := s.mergeReg_completeWrite_frame idx data strb
  refine ⟨_, exec_wrReg idx low data strb s, merged, others, hirq, hdone, hbytes, hread, hchan, fun low' => ?_⟩
  obtain ⟨hresult, -, hregs, hbytes', hirq', -, -⟩ := State.completeRead_frame (s.mergeReg idx data strb).completeWrite
    (merge (s.readReg idx) data strb)
  exact ⟨_, by rw [exec_rdReg, merged], hresult, hregs, hbytes', hirq'.trans hirq⟩

end Sys2Proof.Machine

/-! PROOFS. The strobed merge by lanes (20_memory.md R46), and what a step reads of the coming inputs: the device
procedures read none of them, the channel processes none of the protection bits (20_memory.md R53). -/

namespace Sys2Proof.Machine

open Sys2Proof Config

/-! ### The merge, lane by lane -/

/-- What is built from four lanes has them: R46's lane rule is that of `mergeLane`. -/
theorem lane_merge (old data : Word) (strb : Strobe) {i : Nat} (hi : i < 4) :
    lane i (merge old data strb) = mergeLane old data strb i := by
  unfold merge
  match i, hi with
  | 0, _ => exact lane_wordOfLanes_0 ..
  | 1, _ => exact lane_wordOfLanes_1 ..
  | 2, _ => exact lane_wordOfLanes_2 ..
  | 3, _ => exact lane_wordOfLanes_3 ..

theorem mergeLane_of_enabled {strb : Strobe} {i : Nat} (h : laneEnabled strb i = true) (old data : Word) :
    mergeLane old data strb i = lane i data := if_pos h

theorem mergeLane_of_not_enabled {strb : Strobe} {i : Nat} (h : ¬ laneEnabled strb i = true) (old data : Word) :
    mergeLane old data strb i = lane i old := if_neg h

theorem not_laneEnabled_empty (i : Nat) : ¬ laneEnabled 0#4 i = true := by simp [laneEnabled]

theorem laneEnabled_full {i : Nat} (hi : i < 4) : laneEnabled 15#4 i = true :=
  (BitVec.getLsbD_allOnes (v := 4) (i := i)).trans (decide_eq_true hi)

/-- The empty strobe keeps the old value. -/
@[simp] theorem merge_empty (old data : Word) : merge old data 0#4 = old :=
  word_ext_lanes fun i hi => by
    rw [lane_merge old data _ hi, mergeLane_of_not_enabled (not_laneEnabled_empty i)]

/-- The full strobe replaces the value. -/
@[simp] theorem merge_full (old data : Word) : merge old data 15#4 = data :=
  word_ext_lanes fun i hi => by
    rw [lane_merge old data _ hi, mergeLane_of_enabled (laneEnabled_full hi)]

/-- Settles O10: the lane rule is that of `mergeLane`, the two extreme strobes follow from it lane by lane, and the
worked example is evaluated. -/
theorem mergeTakesStrobedLanesAndKeepsTheOthers : Obligations.MergeTakesStrobedLanesAndKeepsTheOthers :=
  ⟨fun old data strb _ hi => lane_merge old data strb hi, fun old data => ⟨merge_empty old data, merge_full old data⟩,
    by decide⟩

/-! ### What a step reads of the coming inputs -/

/-- The same state before other coming inputs. -/
def State.withInputs (s : State) (l : List Input) : State := { s with inputs := l }

section
variable (s : State) (l : List Input)

@[simp] theorem State.withInputs_cfg : (s.withInputs l).cfg = s.cfg := rfl
@[simp] theorem State.withInputs_dw : (s.withInputs l).dw = s.dw := rfl
@[simp] theorem State.withInputs_dr : (s.withInputs l).dr = s.dr := rfl
@[simp] theorem State.withInputs_ar : (s.withInputs l).ar = s.ar := rfl
@[simp] theorem State.withInputs_devWvalid : (s.withInputs l).devWvalid = s.devWvalid := rfl

end

/-- The same ports but for the protection bits. -/
def Input.withProt (i : Input) (p q : Prot) : Input := { i with awprot := p, arprot := q }

/-- An operation reads no input: before other inputs it does the same. -/
theorem exec_withInputs {op : Instr} {s t : State} (h : exec op s = .next t) (l : List Input) :
    exec op (s.withInputs l) = .next (t.withInputs l) := by
  cases op with
  | wrCtrl low data strb =>
    by_cases hgo : goBit (merge (s.readReg 0) data strb) = true
    · cases (if_pos hgo).symm.trans h; exact if_pos hgo
    · cases (if_neg hgo).symm.trans h; exact if_neg hgo
  | wrReg => cases h; rfl
  | wrIbuf => cases h; rfl
  | wrObuf => cases h; rfl
  | wrUnmapped => cases h; rfl
  | rdReg => cases h; rfl
  | rdObuf => cases h; rfl
  | rdIbuf => cases h; rfl
  | rdUnmapped => cases h; rfl

/-- `DW` reads no input: only its request from the channels, and the operation it performs. -/
theorem deviceWriteTick_withInputs {s d : State} (h : deviceWriteTick s = .next d) (l : List Input) :
    deviceWriteTick (s.withInputs l) = .next (d.withInputs l) := by
  unfold deviceWriteTick at h ⊢
  rw [State.withInputs_dw, State.withInputs_devWvalid]
  cases hs : s.dw.state <;> cases hv : s.devWvalid <;> simp only [hs, hv] at h ⊢
  case idle.true => exact exec_withInputs h l
  all_goals cases h; rfl

/-- `DR` reads no input: only its request from the channel, and the operation it performs. -/
theorem deviceReadTick_withInputs {s r : State} (h : deviceReadTick s = .next r) (l : List Input) :
    deviceReadTick (s.withInputs l) = .next (r.withInputs l) := by
  unfold deviceReadTick at h ⊢
  rw [State.withInputs_dr, State.withInputs_ar]
  cases hs : s.dr.state <;> cases hv : s.ar.auxValid <;> simp only [hs, hv] at h ⊢
  case idle.true => exact exec_withInputs h l
  all_goals cases h; rfl

/-- The channel processes do not read the protection bits, and nothing of the device procedures' inputs is kept. -/
theorem assemble_withProt (s d r : State) (i : Input) (rest l : List Input) (p q : Prot) :
    assemble (s.withInputs (i.withProt p q :: rest)) (i.withProt p q) (d.withInputs l) (r.withInputs l) =
      assemble (s.withInputs (i :: rest)) i d r := rfl

/-- A step does not read the protection bits, in a reset tick or in any other. -/
theorem step_withProt (s : State) (i : Input) (rest : List Input) (p q : Prot) :
    step (s.withInputs (i.withProt p q :: rest)) = step (s.withInputs (i :: rest)) := by
  cases hc : s.cfg.wf with
  | false => simp [step, hc]
  | true =>
    have wf (l : List Input) : (s.withInputs l).cfg.wf = true := hc
    have same : (s.withInputs (i.withProt p q :: rest)).input.reset = (s.withInputs (i :: rest)).input.reset := rfl
    cases hreset : (s.withInputs (i :: rest)).input.reset with
    | true => rw [step_of_reset (wf _) hreset, step_of_reset (wf _) (same.trans hreset)]; rfl
    | false =>
      obtain ⟨d, hd⟩ := deviceWriteTick_isNext (s.withInputs (i :: rest))
      obtain ⟨r, hr⟩ := deviceReadTick_isNext (s.withInputs (i :: rest))
      have hd' := deviceWriteTick_withInputs hd (i.withProt p q :: rest)
      have hr' := deviceReadTick_withInputs hr (i.withProt p q :: rest)
      rw [step_of_process (wf _) hreset hd hr, step_of_process (wf _) (same.trans hreset) hd' hr']
      exact congrArg _ (assemble_withProt s d r i rest _ p q)

/-- A well-formed configuration is all a step asks for (R3, R66). -/
theorem step_isNext {s : State} (hc : s.cfg.wf = true) : ∃ t, step s = .next t := by
  cases hreset : s.input.reset with
  | true => exact ⟨_, step_of_reset hc hreset⟩
  | false =>
    obtain ⟨d, hd⟩ := deviceWriteTick_isNext s
    obtain ⟨r, hr⟩ := deviceReadTick_isNext s
    exact ⟨_, step_of_process hc hreset hd hr⟩

/-- Settles O39: the step is the same for all protection bits, and neither an operation nor the step of a well-formed
configuration can fault or refuse. -/
theorem protectionBitsInfluenceNothing : Obligations.ProtectionBitsInfluenceNothing :=
  ⟨fun s i rest p q => (step_withProt s i rest p q).symm, exec_isNext, fun _ => step_isNext⟩

end Sys2Proof.Machine

/-! PROOFS. The write operations by strobe (30_encoding.md R70): each as what it assigns and its completion, how every
write ends, and that the empty strobe assigns nothing to a register or to the InputBuffer. -/

namespace Sys2Proof.Machine

open Sys2Proof Config

/-! ### The empty strobe on a register and on a buffer word -/

/-- Merging no lane leaves the whole state: the register takes the value it had (R46). -/
@[simp] theorem State.mergeReg_empty (s : State) (idx : Fin 16) (data : Word) : s.mergeReg idx data 0#4 = s := by
  have same : s.regs.set idx (s.readReg idx) = s.regs := Vector.set_getElem_self ..
  rw [State.mergeReg, merge_empty, State.writeReg, same]

@[simp] theorem Mem.writeLane_empty (m : Mem) (k0 : Nat) (data : Word) (i : Nat) : m.writeLane k0 data 0#4 i = m :=
  if_neg (not_laneEnabled_empty i)

@[simp] theorem Mem.writeWord_empty (m : Mem) (k0 : Nat) (data : Word) : m.writeWord k0 data 0#4 = m := by
  simp [Mem.writeWord]

@[simp] theorem State.writeIbuf_empty (s : State) (k0 : Nat) (data : Word) : s.writeIbuf k0 data 0#4 = s := by
  rw [State.writeIbuf, Mem.writeWord_empty]

/-! ### How a write ends -/

/-- `WR_CTRL` whose merged value has `GO` = 1: the merge, and the compute step is started (R112). -/
theorem exec_wrCtrl_of_go {s : State} {data : Word} {strb : Strobe}
    (h : goBit (merge (s.readReg 0) data strb) = true) (low : LowBits) :
    exec (.wrCtrl low data strb) s = .next (s.mergeReg 0 data strb).startCompute := if_pos h

/-- `WR_CTRL` whose merged value has `GO` = 0: the merge, `irq` cleared, and completion (R112). -/
theorem exec_wrCtrl_of_not_go {s : State} {data : Word} {strb : Strobe}
    (h : goBit (merge (s.readReg 0) data strb) = false) (low : LowBits) :
    exec (.wrCtrl low data strb) s = .next ((s.mergeReg 0 data strb).setIrq false).completeWrite :=
  if_neg (Bool.eq_false_iff.mp h)

theorem exec_wrIbuf (k : Nat) (low : LowBits) (data : Word) (strb : Strobe) (s : State) :
    exec (.wrIbuf k low data strb) s = .next (s.writeIbuf (wordByteIndex k) data strb).completeWrite := rfl

theorem exec_wrObuf (k : Nat) (low : LowBits) (data : Word) (strb : Strobe) (s : State) :
    exec (.wrObuf k low data strb) s = .next s.completeWrite := rfl

theorem exec_wrUnmapped (a : Nat) (data : Word) (strb : Strobe) (s : State) :
    exec (.wrUnmapped a data strb) s = .next s.completeWrite := rfl

theorem State.completeWrite_writeDone (s : State) : s.completeWrite.WriteDone := ⟨rfl, rfl⟩

/-- Every write, whatever its strobe, completes or starts the compute step (R70, R110). -/
theorem exec_write_ends {i : Instr} (h : i.isWrite = true) (s : State) :
    ∃ t, exec i s = .next t ∧ (t.WriteDone ∨ t.dw.state = .compute) := by
  cases i with
  | wrCtrl low data strb =>
    cases hgo : goBit (merge (s.readReg 0) data strb) with
    | true => exact ⟨_, exec_wrCtrl_of_go hgo low, .inr rfl⟩
    | false => exact ⟨_, exec_wrCtrl_of_not_go hgo low, .inl (State.completeWrite_writeDone _)⟩
  | wrReg => exact ⟨_, exec_wrReg .., .inl (State.completeWrite_writeDone _)⟩
  | wrIbuf => exact ⟨_, exec_wrIbuf .., .inl (State.completeWrite_writeDone _)⟩
  | wrObuf => exact ⟨_, exec_wrObuf .., .inl (State.completeWrite_writeDone _)⟩
  | wrUnmapped => exact ⟨_, exec_wrUnmapped .., .inl (State.completeWrite_writeDone _)⟩
  | rdReg | rdObuf | rdIbuf | rdUnmapped => exact nomatch h

/-! ### The empty strobe, operation by operation -/

/-- `WR_REG` with the empty strobe is its completion alone. -/
theorem exec_wrReg_empty (idx : Fin 16) (low : LowBits) (data : Word) (s : State) :
    exec (.wrReg idx low data 0#4) s = .next s.completeWrite := by
  rw [exec_wrReg, State.mergeReg_empty]

/-- `WR_IBUF` with the empty strobe is its completion alone. -/
theorem exec_wrIbuf_empty (k : Nat) (low : LowBits) (data : Word) (s : State) :
    exec (.wrIbuf k low data 0#4) s = .next s.completeWrite := by
  rw [exec_wrIbuf, State.writeIbuf_empty]

/-- `WR_CTRL` with the empty strobe and a stored `GO` = 1 starts the compute step and does nothing else. -/
theorem exec_wrCtrl_empty_of_go {s : State} (h : goBit (s.readReg 0) = true) (low : LowBits) (data : Word) :
    exec (.wrCtrl low data 0#4) s = .next s.startCompute := by
  rw [exec_wrCtrl_of_go (by rwa [merge_empty]), State.mergeReg_empty]

/-- `WR_CTRL` with the empty strobe and a stored `GO` = 0 clears `irq`, completes, and does nothing else. -/
theorem exec_wrCtrl_empty_of_not_go {s : State} (h : goBit (s.readReg 0) = false) (low : LowBits) (data : Word) :
    exec (.wrCtrl low data 0#4) s = .next (s.setIrq false).completeWrite := by
  rw [exec_wrCtrl_of_not_go (by rwa [merge_empty]), State.mergeReg_empty]

/-- R70 for `WR_REG` and `WR_IBUF`: with the empty strobe they change no storage and not `irq`. -/
theorem exec_empty_keeps_storage {i : Instr} (s : State)
    (h : (∃ idx low data, i = .wrReg idx low data 0#4) ∨ (∃ k low data, i = .wrIbuf k low data 0#4)) :
    ∃ t, exec i s = .next t ∧ s.SameRegs t ∧ s.SameBytes t ∧ t.irq = s.irq := by
  have completes : exec i s = .next s.completeWrite := by
    obtain ⟨idx, low, data, rfl⟩ | ⟨k, low, data, rfl⟩ := h
    · exact exec_wrReg_empty idx low data s
    · exact exec_wrIbuf_empty k low data s
  exact ⟨_, completes, s.readReg_completeWrite, fun _ => ⟨rfl, rfl⟩, rfl⟩

/-- R70 for `WR_CTRL`: with the empty strobe it changes no register and no buffer byte, and takes the action of the
stored control bit. -/
theorem exec_wrCtrl_empty_acts (low : LowBits) (data : Word) (s : State) :
    ∃ t, exec (.wrCtrl low data 0#4) s = .next t ∧ s.SameRegs t ∧ s.SameBytes t ∧
      (goBit (s.readReg 0) = true → t.dw.state = .compute ∧ t.irq = s.irq) ∧
      (goBit (s.readReg 0) = false → t.WriteDone ∧ t.irq = false) := by
  cases hgo : goBit (s.readReg 0) with
  | true =>
    exact ⟨_, exec_wrCtrl_empty_of_go hgo low data, State.readReg_congr s.startCompute_regs, fun _ => ⟨rfl, rfl⟩,
      fun _ => ⟨rfl, rfl⟩, nofun⟩
  | false =>
    exact ⟨_, exec_wrCtrl_empty_of_not_go hgo low data, (s.setIrq false).readReg_completeWrite, fun _ => ⟨rfl, rfl⟩,
      nofun, fun _ => ⟨State.completeWrite_writeDone _, rfl⟩⟩

/-- Settles O19: every write ends in one of two ways by its form; with the empty strobe `WR_REG` and `WR_IBUF` are a
completion alone, and `WR_CTRL` is the action its stored `GO` selects. -/
theorem everyStrobeIsLegalAndTheEmptyOneStoresNothing :
    Obligations.EveryStrobeIsLegalAndTheEmptyOneStoresNothing :=
  ⟨fun _ s h => exec_write_ends h s, fun _ s h => exec_empty_keeps_storage s h, exec_wrCtrl_empty_acts⟩

end Sys2Proof.Machine

/-! PROOFS. The read operations' frame (43_device_read.md R130, R137): each read as its completion and, where the result
is free, one draw; neither assigns storage or the interrupt line. -/

namespace Sys2Proof.Machine

open Sys2Proof Config

/-! ### How a read ends -/

theorem exec_rdObuf (k : Nat) (low : LowBits) (s : State) :
    exec (.rdObuf k low) s = .next (s.completeRead (s.obuf.readWord (wordByteIndex k))) := rfl

theorem exec_rdIbuf (k : Nat) (low : LowBits) (s : State) :
    exec (.rdIbuf k low) s = .next (s.completeRead s.anyM).nextDraw := rfl

theorem exec_rdUnmapped (a : Nat) (s : State) :
    exec (.rdUnmapped a) s = .next (s.completeRead s.anyM).nextDraw := rfl

/-- Everything a read can do: complete with a stored value (R131, R132), or with a draw, which moves the counter on
(R133, R134). -/
theorem exec_read_cases {i : Instr} (h : i.isWrite = false) (s : State) :
    (∃ v, exec i s = .next (s.completeRead v)) ∨ exec i s = .next (s.completeRead s.anyM).nextDraw := by
  cases i with
  | rdReg idx low => exact .inl ⟨_, exec_rdReg idx low s⟩
  | rdObuf k low => exact .inl ⟨_, exec_rdObuf k low s⟩
  | rdIbuf k low => exact .inr (exec_rdIbuf k low s)
  | rdUnmapped a => exact .inr (exec_rdUnmapped a s)
  | wrCtrl | wrReg | wrIbuf | wrObuf | wrUnmapped => exact nomatch h

/-! ### What a read leaves alone -/

/-- A completed read differs from the state before in the read procedure only (R130). -/
theorem State.completeRead_eq (s : State) (v : Word) :
    s.completeRead v = { s with dr := (s.completeRead v).dr, draws := (s.completeRead v).draws } := rfl

/-- A read completed with a draw differs in the read procedure and in the counter of draws only (R133). -/
theorem State.completeRead_nextDraw_eq (s : State) (v : Word) :
    (s.completeRead v).nextDraw =
      { s with dr := (s.completeRead v).nextDraw.dr, draws := (s.completeRead v).nextDraw.draws } := rfl

/-- Settles O23, by the two ways a read can end: a completion, or a completion and a draw. -/
theorem readsHaveNoSideEffects : Obligations.ReadsHaveNoSideEffects := by
  intro i s hread
  obtain ⟨v, completes⟩ | draws := exec_read_cases hread s
  · exact ⟨_, completes, s.completeRead_eq v, s.completeRead_regs v, s.completeRead_ibuf v, s.completeRead_obuf v,
      s.completeRead_irq v⟩
  · exact ⟨_, draws, s.completeRead_nextDraw_eq s.anyM, by simp⟩

end Sys2Proof.Machine

/-! PROOFS. Waiting without a limit (44_control_and_arithmetic.md R125, 60_exceptions.md R144): what one tick does to each
process, that a process whose signal does not come is the same after the tick, and the induction over the run. -/

namespace Sys2Proof.Machine

open Sys2Proof Config

/-! ### Runs, one step at a time -/

theorem run_succ {s u : State} (h : step s = .next u) (n : Nat) :
    Host.Core.run Sys2Proof.core (n + 1) s = Host.Core.run Sys2Proof.core n u := by
  have hstep : Sys2Proof.core.step s = .next u := h
  simp only [Host.Core.run, hstep]

/-- A run of a well-formed configuration does not stop (R3, R66). -/
theorem run_isNext (n : Nat) {s : State} (hc : s.cfg.wf = true) :
    ∃ t, Host.Core.run Sys2Proof.core n s = .next t := by
  induction n generalizing s with
  | zero => exact ⟨s, rfl⟩
  | succ n ih =>
    obtain ⟨u, hu⟩ := step_isNext hc
    rw [run_succ hu]
    exact ih ((congrArg Cfg.wf (step_cfg_inputs hu).1).trans hc)

section
variable {n : Nat} {s u : State} {P Q : State → Prop}

theorem Throughout.head (h : Throughout (n + 1) s P) : P s := h 0 s n.succ_pos rfl

theorem Throughout.tail (h : Throughout (n + 1) s P) (hu : step s = .next u) : Throughout n u P :=
  fun k v hk hv => h (k + 1) v (Nat.succ_lt_succ hk) ((run_succ hu k).trans hv)

theorem Throughout.and (hp : Throughout n s P) (hq : Throughout n s Q) : Throughout n s (fun u => P u ∧ Q u) :=
  fun k u hk hu => ⟨hp k u hk hu, hq k u hk hu⟩

end

/-- A property that holds at a state, and that every step keeps while `Q` holds, holds after any run throughout which
`Q` holds. -/
theorem run_keeps_while {P Q : State → Prop} (hstep : ∀ u v, P u → Q u → step u = .next v → P v) (n : Nat)
    {s t : State} (hs : P s) (hq : Throughout n s Q) (h : Host.Core.run Sys2Proof.core n s = .next t) : P t := by
  induction n generalizing s with
  | zero => cases h; exact hs
  | succ n ih =>
    cases hu : step s with
    | next u => exact ih (hstep s u hs hq.head hu) (hq.tail hu) ((run_succ hu n).symm.trans h)
    | fault f => exact nomatch f
    | refused q =>
      have hrefused : Sys2Proof.core.step s = .refused q := hu
      simp [Host.Core.run, hrefused] at h

/-! ### What a tick without reset does to each process -/

section
variable {s t d : State}

/-- Outside reset a step is the seven processes' tick (R4). -/
theorem step_process (hr : s.input.reset = false) (h : step s = .next t) :
    ∃ d r, deviceWriteTick s = .next d ∧ deviceReadTick s = .next r ∧ t = assemble s s.input d r := by
  obtain ⟨-, ⟨reset, -⟩ | ⟨-, process⟩⟩ := step_cases h
  · exact absurd reset (by simp [hr])
  · exact process

theorem step_aw (hr : s.input.reset = false) (h : step s = .next t) : t.aw = nextAw s s.input := by
  obtain ⟨d, r, -, -, rfl⟩ := step_process hr h; rfl

theorem step_w (hr : s.input.reset = false) (h : step s = .next t) : t.w = nextW s s.input := by
  obtain ⟨d, r, -, -, rfl⟩ := step_process hr h; rfl

theorem step_b (hr : s.input.reset = false) (h : step s = .next t) : t.b = nextB s s.input := by
  obtain ⟨d, r, -, -, rfl⟩ := step_process hr h; rfl

theorem step_ar (hr : s.input.reset = false) (h : step s = .next t) : t.ar = nextAr s s.input := by
  obtain ⟨d, r, -, -, rfl⟩ := step_process hr h; rfl

theorem step_r (hr : s.input.reset = false) (h : step s = .next t) : t.r = nextR s s.input := by
  obtain ⟨d, r, -, -, rfl⟩ := step_process hr h; rfl

theorem step_dw (hr : s.input.reset = false) (h : step s = .next t) (hd : deviceWriteTick s = .next d) :
    t.dw = d.dw := by
  obtain ⟨d', r, hd', -, rfl⟩ := step_process hr h
  cases hd.symm.trans hd'
  rfl

theorem step_dr (hr : s.input.reset = false) (h : step s = .next t) (hd : deviceReadTick s = .next d) :
    t.dr = d.dr := by
  obtain ⟨d', r, -, hr', rfl⟩ := step_process hr h
  cases hd.symm.trans hr'
  rfl

end

/-! ### The device procedures, by state -/

section
variable {s : State}

theorem deviceWriteTick_idle (h : s.dw.state = .idle) :
    deviceWriteTick s = if s.devWvalid then exec s.writeOperation s else .next s := by
  simp [deviceWriteTick, h]

theorem deviceWriteTick_ack (h : s.dw.state = .ack) :
    deviceWriteTick s = if s.devWvalid then .next s else .next s.finishWrite := by
  simp [deviceWriteTick, h]

theorem deviceReadTick_idle (h : s.dr.state = .idle) :
    deviceReadTick s = if s.ar.auxValid then exec s.readOperation s else .next s := by
  simp [deviceReadTick, h]

theorem deviceReadTick_ack (h : s.dr.state = .ack) :
    deviceReadTick s = if s.ar.auxValid then .next s else .next s.finishRead := by
  simp [deviceReadTick, h]

end

/-! ### One tick of waiting -/

section
variable (c : Cfg) {ch : AddrChannel} (valid : Bool) (raw : Nat) (dev : Bool)

/-- An address channel whose valid is not presented waits (R82, R102, R144). -/
theorem AddrChannel.tick_waits_for_valid (h : ch.state = .awaitValid) : ch.tick c false raw dev = ch := by
  simp [ch.tick_awaitValid c _ raw dev h]

/-- An address channel that the device does not answer waits (R83, R103, R144). -/
theorem AddrChannel.tick_waits_for_device (h : ch.state = .awaitDeviceReady) : ch.tick c valid raw false = ch := by
  simp [ch.tick_awaitDeviceReady c valid raw _ h]

end

section
variable {s t : State} (hr : s.input.reset = false) (h : step s = .next t)
include hr h

theorem aw_waits_for_valid (hs : s.aw.state = .awaitValid) (hv : s.input.awvalid = false) : t.aw = s.aw := by
  rw [step_aw hr h, nextAw, hv, AddrChannel.tick_waits_for_valid _ _ _ hs]

theorem aw_waits_for_device (hs : s.aw.state = .awaitDeviceReady) (hv : s.dw.ready = false) : t.aw = s.aw := by
  rw [step_aw hr h, nextAw, hv, AddrChannel.tick_waits_for_device _ _ _ hs]

theorem ar_waits_for_valid (hs : s.ar.state = .awaitValid) (hv : s.input.arvalid = false) : t.ar = s.ar := by
  rw [step_ar hr h, nextAr, hv, AddrChannel.tick_waits_for_valid _ _ _ hs]

theorem ar_waits_for_device (hs : s.ar.state = .awaitDeviceReady) (hv : s.dr.ready = false) : t.ar = s.ar := by
  rw [step_ar hr h, nextAr, hv, AddrChannel.tick_waits_for_device _ _ _ hs]

theorem w_waits_for_valid (hs : s.w.state = .awaitValid) (hv : s.input.wvalid = false) : t.w = s.w := by
  simp [step_w hr h, nextW_awaitValid s _ hs, hv]

theorem w_waits_for_device (hs : s.w.state = .awaitDeviceReady) (hv : s.dw.ready = false) : t.w = s.w := by
  simp [step_w hr h, nextW_awaitDeviceReady s _ hs, hv]

/-- `B` goes on collecting: its flags may rise, its state and its valid stay (R90). -/
theorem b_collects (hs : s.b.state = .collect) (hv : s.b.allObserved = false) :
    (t.b.state, t.b.valid) = (s.b.state, s.b.valid) := by
  simp [step_b hr h, nextB_collect s _ hs, hv]

theorem b_waits_for_ready (hs : s.b.state = .respond) (hv : s.input.bready = false) : t.b = s.b := by
  simp [step_b hr h, nextB_respond s _ hs, hv]

theorem r_waits_for_device (hs : s.r.state = .idle) (hv : s.dr.ready = false) : t.r = s.r := by
  simp [step_r hr h, nextR_idle s _ hs, hv]

theorem r_waits_for_ready (hs : s.r.state = .validate) (hv : s.input.rready = false) : t.r = s.r := by
  simp [step_r hr h, nextR_validate s _ hs, hv]

theorem r_waits_for_release (hs : s.r.state = .drain) (hv : s.dr.ready = true) : t.r = s.r := by
  simp [step_r hr h, nextR_drain s _ hs, hv]

theorem dw_waits_for_request (hs : s.dw.state = .idle) (hv : s.devWvalid = false) : t.dw = s.dw :=
  step_dw hr h (by simp [deviceWriteTick_idle hs, hv])

theorem dw_waits_for_release (hs : s.dw.state = .ack) (hv : s.devWvalid = true) : t.dw = s.dw :=
  step_dw hr h (by simp [deviceWriteTick_ack hs, hv])

theorem dr_waits_for_request (hs : s.dr.state = .idle) (hv : s.ar.auxValid = false) : t.dr = s.dr :=
  step_dr hr h (by simp [deviceReadTick_idle hs, hv])

theorem dr_waits_for_release (hs : s.dr.state = .ack) (hv : s.ar.auxValid = true) : t.dr = s.dr :=
  step_dr hr h (by simp [deviceReadTick_ack hs, hv])

end

/-! ### Any number of ticks of waiting -/

/-- `own` is what a process keeps of its elements, `waits` that it is in a waiting state, `absent` that its signal does
not come: if one tick without the signal keeps `own`, then so does a run in which the signal never comes. -/
theorem run_waits {α : Type} (own : State → α) (waits : α → Prop) {absent : State → Prop}
    (tick : ∀ {u v : State}, u.input.reset = false → step u = .next v → waits (own u) → absent u → own v = own u)
    {n : Nat} {s t : State} (noReset : Throughout n s (fun u => u.input.reset = false))
    (run : Host.Core.run Sys2Proof.core n s = .next t) (hs : waits (own s)) (quiet : Throughout n s absent) :
    own t = own s := by
  refine run_keeps_while (P := fun u => own u = own s) ?_ n rfl (Throughout.and noReset quiet) run
  rintro u v same ⟨hr, habsent⟩ h
  have stillWaits : waits (own u) := same.symm ▸ hs
  exact (tick hr h stillWaits habsent).trans same

/-- Settles O53: the run does not stop, and each waiting state of R125 lasts for one tick without its signal, so for any
number of them (`run_waits`). -/
theorem waitingStatesHaveNoTimeout : Obligations.WaitingStatesHaveNoTimeout := by
  intro s n hc noReset
  obtain ⟨t, run⟩ := run_isNext n hc
  exact ⟨t, run,
    run_waits (·.aw) (·.state = .awaitValid) aw_waits_for_valid noReset run,
    run_waits (·.aw) (·.state = .awaitDeviceReady) aw_waits_for_device noReset run,
    run_waits (·.w) (·.state = .awaitValid) w_waits_for_valid noReset run,
    run_waits (·.w) (·.state = .awaitDeviceReady) w_waits_for_device noReset run,
    run_waits (·.ar) (·.state = .awaitValid) ar_waits_for_valid noReset run,
    run_waits (·.ar) (·.state = .awaitDeviceReady) ar_waits_for_device noReset run,
    fun hs quiet => by
      have kept := run_waits (fun u => (u.b.state, u.b.valid)) (·.1 = .collect) b_collects noReset run hs quiet
      obtain ⟨state, valid⟩ := Prod.mk.inj kept
      exact ⟨state.trans hs, valid⟩,
    run_waits (·.b) (·.state = .respond) b_waits_for_ready noReset run,
    run_waits (·.r) (·.state = .idle) r_waits_for_device noReset run,
    run_waits (·.r) (·.state = .validate) r_waits_for_ready noReset run,
    run_waits (·.r) (·.state = .drain) r_waits_for_release noReset run,
    run_waits (·.dw) (·.state = .idle) dw_waits_for_request noReset run,
    run_waits (·.dw) (·.state = .ack) dw_waits_for_release noReset run,
    run_waits (·.dr) (·.state = .idle) dr_waits_for_request noReset run,
    run_waits (·.dr) (·.state = .ack) dr_waits_for_release noReset run⟩

end Sys2Proof.Machine

/-! PROOFS. The byte layout both ways (30_encoding.md R61 to R64): an operation's address decodes to the operation, the
decoded operation's address is the one decoded, and what parses is the bytes of the transaction it parses to. -/

namespace Sys2Proof.Machine

open Sys2Proof Config

/-! ### The address of a word, taken apart -/

theorem lowBits_wordAddress {offset : Nat} (ho : offset % 4 = 0) (k : Nat) (low : LowBits) :
    lowBits (offset + bpw * k + low.toNat) = low := by
  have hlow := low.isLt
  apply BitVec.eq_of_toNat_eq
  rw [lowBits_toNat, bpw]
  omega

theorem wordIndex_wordAddress {offset : Nat} (ho : offset % 4 = 0) (k : Nat) (low : LowBits) :
    wordIndex offset (offset + bpw * k + low.toNat) = k := by
  have hlow := low.isLt
  simp only [wordIndex, wordBase, bpw]
  omega

theorem regIndex_wordAddress (idx : Fin 16) (low : LowBits) : regIndex (bpw * idx.val + low.toNat) = idx := by
  have hlow := low.isLt
  apply Fin.ext
  rw [regIndex_val (by rw [bpw]; omega), bpw]
  omega

/-- Register 0 is the first word of the address space (R45). -/
theorem regIndex_eq_zero {a : Nat} (h : a < 64) : regIndex a = 0 ↔ a < 4 := by
  rw [Fin.ext_iff, regIndex_val h, Fin.val_zero]
  omega

/-! ### Decode after encode -/

/-- A word inside a buffer: its bytes lie inside the buffer, which holds whole words. -/
theorem wordAddress_inside {offset size k : Nat} (hs : size % 4 = 0) (hk : bpw * k < size) (low : LowBits) :
    offset ≤ offset + bpw * k + low.toNat ∧ offset + bpw * k + low.toNat < offset + size := by
  have hlow := low.isLt
  rw [bpw] at hk ⊢
  omega

theorem region_reg_wordAddress (c : Cfg) (idx : Fin 16) (low : LowBits) :
    region c (bpw * idx.val + low.toNat) = .reg := by
  have hlow := low.isLt
  rw [region_eq_reg, bpw]
  omega

section
variable {c : Cfg} (hc : c.wf = true)
include hc

theorem region_ibuf_wordAddress {k : Nat} (hk : bpw * k < c.rfileSize) (low : LowBits) :
    region c (c.rfileOffset + bpw * k + low.toNat) = .ibuf :=
  (region_eq_ibuf hc).mpr (wordAddress_inside (Cfg.wf_align hc).2.1 hk low)

theorem region_obuf_wordAddress {k : Nat} (hk : bpw * k < c.wfileSize) (low : LowBits) :
    region c (c.wfileOffset + bpw * k + low.toNat) = .obuf :=
  (region_eq_obuf hc).mpr (wordAddress_inside (Cfg.wf_align hc).2.2.2.1 hk low)

/-- The transaction assembled for a well-formed operation selects that operation: the region from the bounds of R63, the
index and the low bits from the address. -/
theorem decodeTransaction_encodeTransaction {i : Instr} (hi : i.wf c = true) :
    decodeTransaction c (encodeTransaction c i) = i := by
  obtain ⟨hro, -, hwo, -, -, -⟩ := Cfg.wf_align hc
  cases i with
  | wrCtrl low data strb =>
    have hreg := region_reg_wordAddress c 0 low
    have hidx := regIndex_wordAddress 0 low
    have hlow := lowBits_wordAddress (offset := 0) rfl 0 low
    simp only [Fin.val_zero, mul_zero, Nat.zero_add, Nat.add_zero] at hreg hidx hlow
    simp [decodeTransaction, encodeTransaction, decodeWrite, hreg, hidx, hlow]
  | wrReg idx low data strb =>
    have hne : idx ≠ 0 := by simpa [Instr.wf] using hi
    have hlow := lowBits_wordAddress (offset := 0) rfl idx.val low
    rw [Nat.zero_add] at hlow
    simp [decodeTransaction, encodeTransaction, decodeWrite, region_reg_wordAddress, regIndex_wordAddress, hlow, hne]
  | wrIbuf k low data strb =>
    have hk : bpw * k < c.rfileSize := by simpa [Instr.wf] using hi
    simp only [decodeTransaction, encodeTransaction, decodeWrite, region_ibuf_wordAddress hc hk,
      wordIndex_wordAddress hro, lowBits_wordAddress hro]
  | wrObuf k low data strb =>
    have hk : bpw * k < c.wfileSize := by simpa [Instr.wf] using hi
    simp only [decodeTransaction, encodeTransaction, decodeWrite, region_obuf_wordAddress hc hk,
      wordIndex_wordAddress hwo, lowBits_wordAddress hwo]
  | wrUnmapped a data strb =>
    simp only [decodeTransaction, encodeTransaction, decodeWrite, (Cfg.unmappedOk_iff.mp hi).2]
  | rdReg idx low =>
    have hlow := lowBits_wordAddress (offset := 0) rfl idx.val low
    rw [Nat.zero_add] at hlow
    simp only [decodeTransaction, encodeTransaction, decodeRead, region_reg_wordAddress, regIndex_wordAddress, hlow]
  | rdObuf k low =>
    have hk : bpw * k < c.wfileSize := by simpa [Instr.wf] using hi
    simp only [decodeTransaction, encodeTransaction, decodeRead, region_obuf_wordAddress hc hk,
      wordIndex_wordAddress hwo, lowBits_wordAddress hwo]
  | rdIbuf k low =>
    have hk : bpw * k < c.rfileSize := by simpa [Instr.wf] using hi
    simp only [decodeTransaction, encodeTransaction, decodeRead, region_ibuf_wordAddress hc hk,
      wordIndex_wordAddress hro, lowBits_wordAddress hro]
  | rdUnmapped a =>
    simp only [decodeTransaction, encodeTransaction, decodeRead, (Cfg.unmappedOk_iff.mp hi).2]

/-- The address assembled for a well-formed operation has `N` bits, whichever operation it is (R62). -/
theorem addressFits (i : Instr) (hi : i.wf c = true) : Laws.addressOf (encodeTransaction c i) < 2 ^ c.addrWidth := by
  cases i with
  | wrCtrl low data strb => exact Laws.AddressFits.wrCtrl low data strb c hc hi
  | wrReg idx low data strb => exact Laws.AddressFits.wrReg idx low data strb c hc hi
  | wrIbuf k low data strb => exact Laws.AddressFits.wrIbuf k low data strb c hc hi
  | wrObuf k low data strb => exact Laws.AddressFits.wrObuf k low data strb c hc hi
  | wrUnmapped a data strb => exact Laws.AddressFits.wrUnmapped a data strb c hc hi
  | rdReg idx low => exact Laws.AddressFits.rdReg idx low c hc hi
  | rdObuf k low => exact Laws.AddressFits.rdObuf k low c hc hi
  | rdIbuf k low => exact Laws.AddressFits.rdIbuf k low c hc hi
  | rdUnmapped a => exact Laws.AddressFits.rdUnmapped a c hc hi

end

/-- The bytes of a transaction are parsed back, in either direction. -/
theorem parse_bytes {c : Cfg} {t : Transaction} (h : Laws.addressOf t < 2 ^ c.addrWidth) (rest : List Byte) :
    parse c (t.bytes c ++ rest) = .ok (t, rest) := by
  cases t with
  | write a data strb => exact parse_write_bytes h data strb rest
  | read a => exact parse_read_bytes h rest

/-- The bytes of a transaction decode to the operation it selects. -/
theorem decode_bytes {c : Cfg} {t : Transaction} (h : Laws.addressOf t < 2 ^ c.addrWidth) (rest : List Byte) :
    decode c (t.bytes c ++ rest) = .ok (decodeTransaction c t, rest) := by
  simp only [decode, parse_bytes h rest]

/-- Settles O1: the operation's address has `N` bits, so its transaction is parsed back from the bytes, and the
transaction selects the operation. -/
theorem decodeAfterEncodeGivesTheOperationBack : Obligations.DecodeAfterEncodeGivesTheOperationBack := by
  intro c i rest hc hi
  rw [encode, decode_bytes (addressFits hc i hi) rest, decodeTransaction_encodeTransaction hc hi]

/-! ### Encode after decode -/

section
variable {c : Cfg} {a : Nat} (hc : c.wf = true)
include hc

/-- Where a write goes: a well-formed write operation that carries the whole transaction (R44, R63). -/
theorem decodeWrite_selects (ha : a < 2 ^ c.addrWidth) (data : Word) (strb : Strobe) :
    (decodeWrite c a data strb).wf c = true ∧ (decodeWrite c a data strb).isWrite = true ∧
      encodeTransaction c (decodeWrite c a data strb) = .write a data strb := by
  obtain ⟨hro, -, hwo, -, -, -⟩ := Cfg.wf_align hc
  obtain ⟨hreg, hidx, h⟩ | ⟨hreg, hidx, h⟩ | ⟨hreg, h⟩ | ⟨hreg, h⟩ | ⟨hreg, h⟩ := decodeWrite_cases c a data strb <;>
    rw [h]
  · have low : a < 4 := (regIndex_eq_zero (region_eq_reg.mp hreg)).mp hidx
    exact ⟨rfl, rfl, by simp only [encodeTransaction, lowBits_toNat, Nat.mod_eq_of_lt low]⟩
  · have address : bpw * (regIndex a).val + a % 4 = a := by rw [regIndex_val (region_eq_reg.mp hreg), bpw]; omega
    exact ⟨by simpa [Instr.wf] using hidx, rfl, by simp only [encodeTransaction, lowBits_toNat, address]⟩
  · obtain ⟨above, below⟩ := (region_eq_ibuf hc).mp hreg
    have address := wordIndex_spec hro above
    exact ⟨by simp only [Instr.wf, decide_eq_true_eq, bpw]; omega, rfl,
      by simp only [encodeTransaction, lowBits_toNat, address]⟩
  · obtain ⟨above, below⟩ := (region_eq_obuf hc).mp hreg
    have address := wordIndex_spec hwo above
    exact ⟨by simp only [Instr.wf, decide_eq_true_eq, bpw]; omega, rfl,
      by simp only [encodeTransaction, lowBits_toNat, address]⟩
  · exact ⟨Cfg.unmappedOk_iff.mpr ⟨ha, hreg⟩, rfl, rfl⟩

/-- Where a read goes: a well-formed read operation that carries the whole transaction (R44, R63). -/
theorem decodeRead_selects (ha : a < 2 ^ c.addrWidth) :
    (decodeRead c a).wf c = true ∧ (decodeRead c a).isWrite = false ∧
      encodeTransaction c (decodeRead c a) = .read a := by
  obtain ⟨hro, -, hwo, -, -, -⟩ := Cfg.wf_align hc
  obtain ⟨hreg, h⟩ | ⟨hreg, h⟩ | ⟨hreg, h⟩ | ⟨hreg, h⟩ := decodeRead_cases c a <;> rw [h]
  · have address : bpw * (regIndex a).val + a % 4 = a := by rw [regIndex_val (region_eq_reg.mp hreg), bpw]; omega
    exact ⟨rfl, rfl, by simp only [encodeTransaction, lowBits_toNat, address]⟩
  · obtain ⟨above, below⟩ := (region_eq_obuf hc).mp hreg
    have address := wordIndex_spec hwo above
    exact ⟨by simp only [Instr.wf, decide_eq_true_eq, bpw]; omega, rfl,
      by simp only [encodeTransaction, lowBits_toNat, address]⟩
  · obtain ⟨above, below⟩ := (region_eq_ibuf hc).mp hreg
    have address := wordIndex_spec hro above
    exact ⟨by simp only [Instr.wf, decide_eq_true_eq, bpw]; omega, rfl,
      by simp only [encodeTransaction, lowBits_toNat, address]⟩
  · exact ⟨Cfg.unmappedOk_iff.mpr ⟨ha, hreg⟩, rfl, rfl⟩

/-- Both directions in one: the selected operation is well formed and gives the transaction back. -/
theorem decodeTransaction_selects {t : Transaction} (h : Laws.addressOf t < 2 ^ c.addrWidth) :
    (decodeTransaction c t).wf c = true ∧ encodeTransaction c (decodeTransaction c t) = t := by
  cases t with
  | write a data strb =>
    obtain ⟨wf, -, back⟩ := decodeWrite_selects hc h data strb
    exact ⟨wf, back⟩
  | read a =>
    obtain ⟨wf, -, back⟩ := decodeRead_selects hc h
    exact ⟨wf, back⟩

end

/-- Settles O5, by the region of the address. -/
theorem everyTransactionSelectsOneOperation : Obligations.EveryTransactionSelectsOneOperation := by
  intro c a data strb hc ha
  obtain ⟨wfWrite, isWrite, backWrite⟩ := decodeWrite_selects hc ha data strb
  exact ⟨wfWrite, isWrite, backWrite, decodeRead_selects hc ha⟩

/-- A byte below 16 is its low four bits. -/
theorem setWidth_strobe {st : Byte} (h : ¬ 16 ≤ st.toNat) : (st.setWidth 4).setWidth 8 = st := by
  apply BitVec.eq_of_toNat_eq
  rw [BitVec.toNat_setWidth, BitVec.toNat_setWidth]
  omega

/-- The first `n` bytes are those of the number they hold. -/
theorem bytesOfNat_take {bytes : List Byte} {n : Nat} (h : n ≤ bytes.length) :
    bytesOfNat n (natOfBytes (bytes.take n)) = bytes.take n := by
  have back := bytesOfNat_natOfBytes (bytes.take n)
  rwa [List.length_take, Nat.min_eq_left h] at back

/-- What parses is a transaction of `N` address bits, and the bytes are that transaction's. -/
theorem bytes_of_parse {c : Cfg} {bytes rest : List Byte} {t : Transaction} (h : parse c bytes = .ok (t, rest)) :
    Laws.addressOf t < 2 ^ c.addrWidth ∧ bytes = t.bytes c ++ rest := by
  have room : 2 ^ (c.addrWidth + 1) = 2 ^ c.addrWidth + 2 ^ c.addrWidth := by rw [Nat.pow_succ]; omega
  unfold parse at h
  split at h
  · exact nomatch h
  next long =>
    have word := bytesOfNat_take (Nat.le_of_not_lt long)
    have parts := List.take_append_drop (decodeWordBytes c) bytes
    dsimp only at h
    generalize natOfBytes (bytes.take (decodeWordBytes c)) = d at h word
    split at h
    · exact nomatch h
    next fits =>
      split at h
      next isRead =>
        cases h
        exact ⟨isRead, by rw [Transaction.bytes, decodeWord, word, List.append_nil, parts]⟩
      next isWrite =>
        split at h
        next b0 b1 b2 b3 st rest' tail =>
          split at h
          · exact nomatch h
          next strobe =>
            cases h
            have address : 2 ^ c.addrWidth + (d - 2 ^ c.addrWidth) = d := by omega
            refine ⟨by rw [Laws.addressOf]; omega, ?_⟩
            rw [tail] at parts
            rw [Transaction.bytes, decodeWord, address, word]
            simpa [setWidth_strobe strobe] using parts.symm
        next => exact nomatch h

/-- Settles O2: the bytes are those of the transaction parsed, which the selected operation gives back. -/
theorem decodedBytesAreTheOperationsEncoding : Obligations.DecodedBytesAreTheOperationsEncoding := by
  intro c bytes rest i hc h
  unfold decode at h
  split at h
  next t rest' hparse =>
    cases h
    obtain ⟨fits, hbytes⟩ := bytes_of_parse hparse
    obtain ⟨wf, back⟩ := decodeTransaction_selects hc fits
    exact ⟨wf, by rw [encode, back, hbytes]⟩
  next => exact nomatch h

end Sys2Proof.Machine

/-! PROOFS. What one tick does, as forms to split on: the state element of a channel, the effect of a performed write, and
the tick of each device procedure. -/

namespace Sys2Proof.Machine

open Sys2Proof Config

/-! ### The state element of a channel -/

/-- The state element of `AW`, `W` and `AR` after a tick (R81 to R86, R101 to R103). -/
def ChanState.next (valid dev : Bool) : ChanState → ChanState
  | .readyHigh => .awaitValid
  | .awaitValid => if valid then .awaitDeviceReady else .awaitValid
  | .awaitDeviceReady => if dev then .readyHigh else .awaitDeviceReady

theorem AddrChannel.tick_state (c : Cfg) (ch : AddrChannel) (valid : Bool) (raw : Nat) (dev : Bool) :
    (ch.tick c valid raw dev).state = ch.state.next valid dev := by
  cases h : ch.state with
  | readyHigh => rw [ch.tick_readyHigh c valid raw dev h]; rfl
  | awaitValid => rw [ch.tick_awaitValid c valid raw dev h]; cases valid <;> simp [ChanState.next, h]
  | awaitDeviceReady => rw [ch.tick_awaitDeviceReady c valid raw dev h]; cases dev <;> simp [ChanState.next, h]

theorem nextW_state (s : State) (i : Input) : (nextW s i).state = s.w.state.next i.wvalid s.dw.ready := by
  cases h : s.w.state with
  | readyHigh => rw [nextW_readyHigh s i h]; rfl
  | awaitValid => rw [nextW_awaitValid s i h]; cases i.wvalid <;> simp [ChanState.next, h]
  | awaitDeviceReady => rw [nextW_awaitDeviceReady s i h]; cases s.dw.ready <;> simp [ChanState.next, h]

section
variable {s t : State} (hr : s.input.reset = false) (h : step s = .next t)
include hr h

theorem step_aw_state : t.aw.state = s.aw.state.next s.input.awvalid s.dw.ready := by
  rw [step_aw hr h, nextAw, AddrChannel.tick_state]

theorem step_w_state : t.w.state = s.w.state.next s.input.wvalid s.dw.ready := by
  rw [step_w hr h, nextW_state]

theorem step_ar_state : t.ar.state = s.ar.state.next s.input.arvalid s.dr.ready := by
  rw [step_ar hr h, nextAr, AddrChannel.tick_state]

end

/-! ### The direction of a decoded operation -/

theorem decodeWrite_isWrite (c : Cfg) (a : Nat) (data : Word) (strb : Strobe) :
    (decodeWrite c a data strb).isWrite = true := by
  obtain ⟨-, -, e⟩ | ⟨-, -, e⟩ | ⟨-, e⟩ | ⟨-, e⟩ | ⟨-, e⟩ := decodeWrite_cases c a data strb <;> rw [e] <;> rfl

theorem decodeRead_isRead (c : Cfg) (a : Nat) : (decodeRead c a).isWrite = false := by
  obtain ⟨-, e⟩ | ⟨-, e⟩ | ⟨-, e⟩ | ⟨-, e⟩ := decodeRead_cases c a <;> rw [e] <;> rfl

/-! ### The effect of a performed write -/

/-- What a write to address `a` leaves of `s` (R112 to R116), by the region of the address. -/
inductive WriteEffect (c : Cfg) (a : Nat) (data : Word) (strb : Strobe) (s : State) : State → Prop
  /-- A register-0 write with `GO` = 1. -/
  | startsCompute (control : a < 4) (go : goBit (merge (s.readReg 0) data strb) = true) :
      WriteEffect c a data strb s (s.mergeReg 0 data strb).startCompute
  /-- A register-0 write with `GO` = 0. -/
  | clearsIrq (control : a < 4) (go : goBit (merge (s.readReg 0) data strb) = false) :
      WriteEffect c a data strb s ((s.mergeReg 0 data strb).setIrq false).completeWrite
  /-- A write to one of registers 1 to 15. -/
  | mergesReg (reg : a < 64) (plain : regIndex a ≠ 0) :
      WriteEffect c a data strb s (s.mergeReg (regIndex a) data strb).completeWrite
  /-- A write to the InputBuffer region. -/
  | writesIbuf (ibuf : region c a = .ibuf) :
      WriteEffect c a data strb s (s.writeIbuf (wordByteIndex (wordIndex c.rfileOffset a)) data strb).completeWrite
  /-- A write to the OutputBuffer region or to no region. -/
  | storesNothing (outside : region c a = .obuf ∨ region c a = .unmapped) : WriteEffect c a data strb s s.completeWrite

/-- Every performed write has one of these effects. -/
theorem writeEffect_of_exec {c : Cfg} {a : Nat} {data : Word} {strb : Strobe} {s d : State}
    (h : exec (decodeWrite c a data strb) s = .next d) : WriteEffect c a data strb s d := by
  obtain ⟨hreg, hidx, e⟩ | ⟨hreg, hidx, e⟩ | ⟨hreg, e⟩ | ⟨hreg, e⟩ | ⟨hreg, e⟩ := decodeWrite_cases c a data strb <;>
    rw [e] at h
  · have control : a < 4 := (regIndex_eq_zero (region_eq_reg.mp hreg)).mp hidx
    cases go : goBit (merge (s.readReg 0) data strb) with
    | true => rw [exec_wrCtrl_of_go go] at h; cases h; exact .startsCompute control go
    | false => rw [exec_wrCtrl_of_not_go go] at h; cases h; exact .clearsIrq control go
  · cases h; exact .mergesReg (region_eq_reg.mp hreg) hidx
  · cases h; exact .writesIbuf hreg
  · cases h; exact .storesNothing (.inl hreg)
  · cases h; exact .storesNothing (.inr hreg)

/-- A performed write leaves `DW` in its compute step or acknowledging (R110). -/
theorem WriteEffect.busy {c : Cfg} {a : Nat} {data : Word} {strb : Strobe} {s d : State}
    (h : WriteEffect c a data strb s d) : d.dw.state ≠ .idle := by
  cases h <;> exact nofun

/-- A register-0 address is no other register's. -/
theorem regIndex_of_control {a : Nat} (h : a < 4) : regIndex a = 0 := (regIndex_eq_zero (by omega)).mpr h

/-! ### The device procedures -/

/-- What `DW` makes of `s` in one tick (R110, R117, R119). -/
inductive WriteTick (s : State) : State → Prop
  | performs {d : State} (idle : s.dw.state = .idle) (request : s.devWvalid = true)
      (effect : WriteEffect s.cfg s.aw.addr s.w.data s.w.strb s d) : WriteTick s d
  | rests (idle : s.dw.state = .idle) (request : s.devWvalid = false) : WriteTick s s
  | computes (compute : s.dw.state = .compute) : WriteTick s (computeTick s)
  | holds (ack : s.dw.state = .ack) (request : s.devWvalid = true) : WriteTick s s
  | releases (ack : s.dw.state = .ack) (request : s.devWvalid = false) : WriteTick s s.finishWrite

theorem writeTick_of_eq {s d : State} (h : deviceWriteTick s = .next d) : WriteTick s d := by
  obtain ⟨hs, hv, e⟩ | ⟨hs, hv, e⟩ | ⟨hs, e⟩ | ⟨hs, hv, e⟩ | ⟨hs, hv, e⟩ := deviceWriteTick_cases s <;> rw [e] at h
  · exact .performs hs hv (writeEffect_of_exec h)
  · cases h; exact .rests hs hv
  · cases h; exact .computes hs
  · cases h; exact .holds hs hv
  · cases h; exact .releases hs hv

/-- What `DR` makes of `s` in one tick (R130, R135). -/
inductive ReadTick (s : State) : State → Prop
  | presents (idle : s.dr.state = .idle) (request : s.ar.auxValid = true) (v : Word) : ReadTick s (s.completeRead v)
  | draws (idle : s.dr.state = .idle) (request : s.ar.auxValid = true) : ReadTick s (s.completeRead s.anyM).nextDraw
  | rests (idle : s.dr.state = .idle) (request : s.ar.auxValid = false) : ReadTick s s
  | holds (ack : s.dr.state = .ack) (request : s.ar.auxValid = true) : ReadTick s s
  | releases (ack : s.dr.state = .ack) (request : s.ar.auxValid = false) : ReadTick s s.finishRead

theorem readTick_of_eq {s d : State} (h : deviceReadTick s = .next d) : ReadTick s d := by
  obtain ⟨hs, hv, e⟩ | ⟨hs, hv, e⟩ | ⟨hs, hv, e⟩ | ⟨hs, hv, e⟩ := deviceReadTick_cases s <;> rw [e] at h
  · obtain ⟨v, e⟩ | e := exec_read_cases (decodeRead_isRead s.cfg s.ar.addr) s <;>
      cases e.symm.trans h
    · exact .presents hs hv v
    · exact .draws hs hv
  · cases h; exact .rests hs hv
  · cases h; exact .holds hs hv
  · cases h; exact .releases hs hv

/-- Outside reset a step puts together a tick of each device procedure and the channels' own. -/
theorem step_ticks {s t : State} (hr : s.input.reset = false) (h : step s = .next t) :
    ∃ d r, WriteTick s d ∧ ReadTick s r ∧ t = assemble s s.input d r := by
  obtain ⟨d, r, hd, hr', e⟩ := step_process hr h
  exact ⟨d, r, writeTick_of_eq hd, readTick_of_eq hr', e⟩

end Sys2Proof.Machine

/-! PROOFS. The invariant of every reachable state (10_state.md R29, 42_device_write.md R119, 43_device_read.md R135), part
by part: each process keeps its flags, the buffers their form, the addresses their width, the device handshake its one
pulse, and register 0 its control bit. -/

namespace Sys2Proof.Machine

open Sys2Proof Config

/-! ### Registers, read after the other updates -/

@[simp] theorem State.readReg_setIrq (s : State) (v : Bool) (j : Fin 16) : (s.setIrq v).readReg j = s.readReg j := rfl

@[simp] theorem State.readReg_startCompute (s : State) (j : Fin 16) : s.startCompute.readReg j = s.readReg j := rfl

@[simp] theorem State.readReg_finishWrite (s : State) (j : Fin 16) : s.finishWrite.readReg j = s.readReg j := rfl

@[simp] theorem State.readReg_writeIbuf (s : State) (k0 : Nat) (data : Word) (strb : Strobe) (j : Fin 16) :
    (s.writeIbuf k0 data strb).readReg j = s.readReg j := rfl

@[simp] theorem State.readReg_assemble (s : State) (i : Input) (d r : State) (j : Fin 16) :
    (assemble s i d r).readReg j = d.readReg j := rfl

/-! ### The compute step, element by element -/

@[simp] theorem computeTick_dw (s : State) : (computeTick s).dw = { state := .ack, ready := true } := rfl
@[simp] theorem computeTick_ibuf (s : State) : (computeTick s).ibuf = s.ibuf := rfl
@[simp] theorem computeTick_irq (s : State) : (computeTick s).irq = true := rfl
@[simp] theorem readReg_computeTick (s : State) (j : Fin 16) : (computeTick s).readReg j = s.readReg j := rfl

/-- The compute step's copy, byte by byte (R118). -/
theorem read_computeTick_obuf (s : State) (k : Nat) :
    (computeTick s).obuf.read k =
      if k < min s.cfg.rfileSize s.cfg.wfileSize then s.ibuf.read k else s.obuf.read k :=
  Mem.read_copy ..

/-! ### Flags agree with states -/

theorem AddrChannel.tick_coherent {ch : AddrChannel} (h : ch.Coherent) (c : Cfg) (valid : Bool) (raw : Nat)
    (dev : Bool) : (ch.tick c valid raw dev).Coherent := by
  cases hs : ch.state with
  | readyHigh =>
    rw [ch.tick_readyHigh c valid raw dev hs]
    simpa [AddrChannel.Coherent, hs] using h.2
  | awaitValid =>
    rw [ch.tick_awaitValid c valid raw dev hs]
    split
    · simp [AddrChannel.Coherent]
    · exact h
  | awaitDeviceReady =>
    rw [ch.tick_awaitDeviceReady c valid raw dev hs]
    split
    · simpa [AddrChannel.Coherent, hs] using h.1
    · exact h

theorem nextW_coherent {s : State} (h : s.w.Coherent) (i : Input) : (nextW s i).Coherent := by
  cases hs : s.w.state with
  | readyHigh =>
    rw [nextW_readyHigh s i hs]
    simpa [DataChannel.Coherent, hs] using h.2
  | awaitValid =>
    rw [nextW_awaitValid s i hs]
    split
    · simp [DataChannel.Coherent]
    · exact h
  | awaitDeviceReady =>
    rw [nextW_awaitDeviceReady s i hs]
    split
    · simpa [DataChannel.Coherent, hs] using h.1
    · exact h

theorem nextB_coherent {s : State} (h : s.b.valid = true ↔ s.b.state = .respond) (i : Input) :
    (nextB s i).valid = true ↔ (nextB s i).state = .respond := by
  cases hs : s.b.state with
  | collect =>
    rw [nextB_collect s i hs]
    split
    · simp
    · simpa [hs] using h
  | respond =>
    rw [nextB_respond s i hs]
    split
    · simp
    · exact h

theorem nextR_coherent {s : State} (h : s.r.valid = true ↔ s.r.state = .validate) (i : Input) :
    (nextR s i).valid = true ↔ (nextR s i).state = .validate := by
  cases hs : s.r.state with
  | idle =>
    rw [nextR_idle s i hs]
    split
    · simp
    · exact h
  | validate =>
    rw [nextR_validate s i hs]
    split
    · simp
    · exact h
  | drain =>
    rw [nextR_drain s i hs]
    split
    · exact h
    · simpa [hs] using h

theorem WriteTick.dw_coherent {s d : State} (h : WriteTick s d) (hs : s.dw.ready = true ↔ s.dw.state = .ack) :
    d.dw.ready = true ↔ d.dw.state = .ack := by
  cases h with
  | performs idle request effect =>
    cases effect with
    | startsCompute => simpa [idle] using hs
    | clearsIrq | mergesReg | writesIbuf | storesNothing => simp
  | rests | holds => exact hs
  | computes | releases => simp

theorem ReadTick.dr_coherent {s r : State} (h : ReadTick s r) (hs : s.dr.ready = true ↔ s.dr.state = .ack) :
    r.dr.ready = true ↔ r.dr.state = .ack := by
  cases h with
  | presents | draws | releases => simp
  | rests | holds => exact hs

/-- Every step keeps flags and states in agreement (R29 (c) to (f)). -/
theorem step_coherent {s t : State} (hs : s.Coherent) (h : step s = .next t) : t.Coherent := by
  obtain ⟨-, ⟨-, rfl⟩ | ⟨hr, -⟩⟩ := step_cases h
  · simp [State.Coherent, AddrChannel.Coherent, DataChannel.Coherent]
  · obtain ⟨d, r, hd, hr', rfl⟩ := step_ticks hr h
    obtain ⟨aw, w, ar, b, rd, dw, dr⟩ := hs
    exact ⟨AddrChannel.tick_coherent aw .., nextW_coherent w _, AddrChannel.tick_coherent ar .., nextB_coherent b _,
      nextR_coherent rd _, hd.dw_coherent dw, hr'.dr_coherent dr⟩

/-! ### Buffers and addresses -/

/-- A buffer write lands in one whole word of the region (R62, R114). -/
theorem wordByteIndex_wordIndex {offset a : Nat} (ho : offset % 4 = 0) (ha : offset ≤ a) :
    offset + wordByteIndex (wordIndex offset a) = wordBase a := by
  simp only [wordByteIndex, wordIndex, wordBase, bpw]
  omega

/-- The word an InputBuffer address names lies inside the buffer. -/
theorem wordByteIndex_inside {c : Cfg} (hc : c.wf = true) {a : Nat} (h : region c a = .ibuf) :
    wordByteIndex (wordIndex c.rfileOffset a) + 4 ≤ c.rfileSize := by
  obtain ⟨ho, hs, -⟩ := Cfg.wf_align hc
  obtain ⟨above, below⟩ := (region_eq_ibuf hc).mp h
  simp only [wordByteIndex, wordIndex, wordBase, bpw]
  omega

/-- A device write tick keeps both buffers in form and within their sizes (R25, R26, R114, R118). -/
theorem WriteTick.buffersOk {s d : State} (h : WriteTick s d) (hc : s.cfg.wf = true) (hs : s.BuffersOk) :
    d.ibuf.wf = true ∧ d.obuf.wf = true ∧ d.ibuf.within s.cfg.rfileSize = true ∧
      d.obuf.within s.cfg.wfileSize = true := by
  obtain ⟨iwf, owf, iin, oin⟩ := hs
  cases h with
  | performs idle request effect =>
    cases effect with
    | writesIbuf ibuf =>
      exact ⟨Mem.writeWord_wf iwf .., owf, Mem.writeWord_within iin (wordByteIndex_inside hc ibuf) .., oin⟩
    | startsCompute | clearsIrq | mergesReg | storesNothing => exact ⟨iwf, owf, iin, oin⟩
  | rests | holds | releases => exact ⟨iwf, owf, iin, oin⟩
  | computes => exact ⟨iwf, Mem.copy_wf owf .., iin, Mem.copy_within oin (Nat.min_le_right ..) _⟩

theorem step_buffersOk {s t : State} (hs : s.BuffersOk) (h : step s = .next t) : t.BuffersOk := by
  obtain ⟨hc, ⟨-, rfl⟩ | ⟨hr, -⟩⟩ := step_cases h
  · exact ⟨Mem.fill_wf .., Mem.fill_wf .., Mem.fill_within _ le_rfl, Mem.fill_within _ le_rfl⟩
  · obtain ⟨d, r, hd, -, rfl⟩ := step_ticks hr h
    exact hd.buffersOk hc hs

/-- A captured address is a translated one, so it has `N` bits (R42, R82). -/
theorem AddrChannel.tick_addr_lt {c : Cfg} {ch : AddrChannel} (h : ch.addr < 2 ^ c.addrWidth) (valid : Bool)
    (raw : Nat) (dev : Bool) : (ch.tick c valid raw dev).addr < 2 ^ c.addrWidth := by
  cases hs : ch.state with
  | readyHigh => rw [ch.tick_readyHigh c valid raw dev hs]; exact h
  | awaitValid =>
    rw [ch.tick_awaitValid c valid raw dev hs]
    split
    · exact xlate_lt c raw
    · exact h
  | awaitDeviceReady =>
    rw [ch.tick_awaitDeviceReady c valid raw dev hs]
    split <;> exact h

theorem step_addressesOk {s t : State} (hs : s.AddressesOk) (h : step s = .next t) : t.AddressesOk := by
  obtain ⟨-, ⟨-, rfl⟩ | ⟨hr, -⟩⟩ := step_cases h
  · exact ⟨portAddr_lt .., portAddr_lt ..⟩
  · obtain ⟨d, r, -, -, rfl⟩ := step_ticks hr h
    exact ⟨AddrChannel.tick_addr_lt hs.1 .., AddrChannel.tick_addr_lt hs.2 ..⟩

/-! ### The device handshake -/

/-- With flags and states in agreement, `dev_wvalid` is both channels holding a captured item (R88). -/
theorem devWvalid_iff {s : State} (hs : s.Coherent) :
    s.devWvalid = true ↔ s.aw.state = .awaitDeviceReady ∧ s.w.state = .awaitDeviceReady := by
  obtain ⟨⟨-, aw⟩, ⟨-, w⟩, -⟩ := hs
  rw [State.devWvalid, Bool.and_eq_true, aw, w]

section
variable {s t : State} (hs : s.Coherent) (hr : s.input.reset = false) (h : step s = .next t)
include hs hr h

/-- A request the device does not answer in this tick is still up in the next (R83, R86). -/
theorem step_holds_devWvalid (request : s.devWvalid = true) (ready : s.dw.ready = false) : t.devWvalid = true := by
  obtain ⟨aw, w⟩ := (devWvalid_iff hs).mp request
  rw [devWvalid_iff (step_coherent hs h), step_aw_state hr h, step_w_state hr h, aw, w, ready]
  exact ⟨rfl, rfl⟩

/-- A request the device answers in this tick is released by both channels (R83, R86). -/
theorem step_releases_write (request : s.devWvalid = true) (ready : s.dw.ready = true) :
    t.aw.state = .readyHigh ∧ t.w.state = .readyHigh := by
  obtain ⟨aw, w⟩ := (devWvalid_iff hs).mp request
  rw [step_aw_state hr h, step_w_state hr h, aw, w, ready]
  exact ⟨rfl, rfl⟩

/-- The same for the read side (R103). -/
theorem step_ar_of_request (request : s.ar.auxValid = true) :
    (s.dr.ready = false → t.ar.auxValid = true) ∧ (s.dr.ready = true → t.ar.state = .readyHigh) := by
  have ar : s.ar.state = .awaitDeviceReady := hs.2.2.1.2.mp request
  have next := step_ar_state hr h
  refine ⟨fun ready => ?_, fun ready => ?_⟩ <;> rw [ar, ready] at next
  · exact (step_coherent hs h).2.2.1.2.mpr next
  · exact next

end

/-- `dev_wready` is 0 outside `DW_ACK` (R29 (f)). -/
theorem dw_notReady {s : State} (hs : s.Coherent) (h : s.dw.state ≠ .ack) : s.dw.ready = false := by
  obtain ⟨-, -, -, -, -, dw, -⟩ := hs
  exact Bool.eq_false_iff.mpr fun ready => h (dw.mp ready)

/-- `dev_rready` is 0 outside `DR_ACK` (R29 (f)). -/
theorem dr_notReady {s : State} (hs : s.Coherent) (h : s.dr.state ≠ .ack) : s.dr.ready = false := by
  obtain ⟨-, -, -, -, -, -, dr⟩ := hs
  exact Bool.eq_false_iff.mpr fun ready => h (dr.mp ready)

/-- Every step keeps the one valid pulse of each device request (R119, R135). -/
theorem step_handshakeOk {s t : State} (hs : s.Coherent) (hh : s.HandshakeOk) (h : step s = .next t) :
    t.HandshakeOk := by
  obtain ⟨-, ⟨-, rfl⟩ | ⟨hr, -⟩⟩ := step_cases h
  · exact ⟨nofun, nofun, nofun⟩
  obtain ⟨d, r, hd, hr', e⟩ := step_ticks hr h
  obtain ⟨whileCompute, -, -⟩ := hh
  have write : d.dw.state ≠ .idle → t.devWvalid = true ∨ (d.dw.state = .ack ∧ t.aw.state = .readyHigh ∧
      t.w.state = .readyHigh) := by
    intro busy
    cases hd with
    | performs idle request => exact .inl (step_holds_devWvalid hs hr h request (dw_notReady hs (by simp [idle])))
    | rests idle => exact absurd idle busy
    | computes compute =>
      exact .inl (step_holds_devWvalid hs hr h (whileCompute compute) (dw_notReady hs (by simp [compute])))
    | holds ack request => exact .inr ⟨ack, step_releases_write hs hr h request (hs.2.2.2.2.2.1.mpr ack)⟩
    | releases => exact absurd rfl busy
  have read : r.dr.state ≠ .idle → t.ar.auxValid = true ∨ t.ar.state = .readyHigh := by
    intro busy
    cases hr' with
    | presents idle request | draws idle request =>
      exact .inl ((step_ar_of_request hs hr h request).1 (dr_notReady hs (by simp [idle])))
    | rests idle => exact absurd idle busy
    | holds ack request => exact .inr ((step_ar_of_request hs hr h request).2 (hs.2.2.2.2.2.2.mpr ack))
    | releases => exact absurd rfl busy
  have dw : t.dw = d.dw := by rw [e]; rfl
  have dr : t.dr = r.dr := by rw [e]; rfl
  rw [State.HandshakeOk, dw, dr]
  refine ⟨fun compute => ?_, fun ack => ?_, fun ack => read (by simp [ack])⟩
  · obtain request | ⟨ack, -⟩ := write (by simp [compute])
    · exact request
    · exact absurd (compute.symm.trans ack) nofun
  · obtain request | ⟨-, released⟩ := write (by simp [ack])
    · exact .inl request
    · exact .inr released

/-! ### The control bit -/

/-- A device write tick keeps the compute step and `irq` under the control bit (R112, R117). -/
theorem WriteTick.triggerOk {s d : State} (h : WriteTick s d) (hs : s.TriggerOk) : d.TriggerOk := by
  obtain ⟨compute, irq⟩ := hs
  cases h with
  | performs idle request effect =>
    cases effect with
    | startsCompute control go => exact ⟨fun _ => by simpa using go, fun _ => by simpa using go⟩
    | clearsIrq => exact ⟨nofun, nofun⟩
    | mergesReg reg plain => exact ⟨nofun, by simpa [plain] using irq⟩
    | writesIbuf | storesNothing => exact ⟨nofun, irq⟩
  | rests | holds => exact ⟨compute, irq⟩
  | computes hs => exact ⟨nofun, fun _ => compute hs⟩
  | releases => exact ⟨nofun, irq⟩

theorem step_triggerOk {s t : State} (hs : s.TriggerOk) (h : step s = .next t) : t.TriggerOk := by
  obtain ⟨-, ⟨-, rfl⟩ | ⟨hr, -⟩⟩ := step_cases h
  · exact ⟨nofun, nofun⟩
  · obtain ⟨d, r, hd, -, rfl⟩ := step_ticks hr h
    exact hd.triggerOk hs

/-! ### The invariant -/

/-- Settles O41, part by part. -/
theorem everyStepKeepsTheInvariant : Obligations.EveryStepKeepsTheInvariant := by
  rintro s t ⟨hc, coherent, buffers, addresses, handshake, trigger⟩ h
  exact ⟨(congrArg Cfg.wf (step_cfg_inputs h).1).trans hc, step_coherent coherent h, step_buffersOk buffers h,
    step_addressesOk addresses h, step_handshakeOk coherent handshake h, step_triggerOk trigger h⟩

/-- Settles O40: every part of the three invariants is evaluated on the state after reset. -/
theorem resetStateMeetsTheInvariants : Obligations.ResetStateMeetsTheInvariants := by
  exact ⟨by decide, by decide, by decide⟩

end Sys2Proof.Machine

/-! PROOFS. Responses under a conformant master (40_write_channels.md R93, 41_read_channels.md R108,
70_reset_and_hazards.md R170 to R172): one side of the write-response synchronizer over one tick, the read side, and what
follows for captured transactions. -/

namespace Sys2Proof.Machine

open Sys2Proof Config

/-! ### The device procedures' states over one tick -/

section
variable {s t : State} (hr : s.input.reset = false) (h : step s = .next t)
include hr h

/-- A request that meets an idle `DW` is taken up (R110). -/
theorem step_dw_takes (idle : s.dw.state = .idle) (request : s.devWvalid = true) : t.dw.state ≠ .idle := by
  obtain ⟨d, r, hd, -, rfl⟩ := step_ticks hr h
  cases hd with
  | performs _ _ effect => exact effect.busy
  | rests _ noRequest => exact absurd (noRequest.symm.trans request) nofun
  | computes compute => exact absurd (idle.symm.trans compute) nofun
  | holds ack | releases ack => exact absurd (idle.symm.trans ack) nofun

/-- The compute step lasts one tick (R117). -/
theorem step_dw_computes (compute : s.dw.state = .compute) : t.dw = { state := .ack, ready := true } := by
  obtain ⟨d, r, hd, -, rfl⟩ := step_ticks hr h
  cases hd with
  | computes => rfl
  | performs idle | rests idle => exact absurd (idle.symm.trans compute) nofun
  | holds ack | releases ack => exact absurd (ack.symm.trans compute) nofun

/-- `DR` acknowledges exactly while it is asked (R130, R135). -/
theorem step_dr_state : t.dr.state = if s.ar.auxValid = true then .ack else .idle := by
  obtain ⟨d, r, -, hr', rfl⟩ := step_ticks hr h
  cases hr' with
  | presents _ request | draws _ request => simp [request]
  | rests idle request => simp [request, idle]
  | holds ack request => simp [request, ack]
  | releases _ request => simp [request]

end

/-! ### One side of the write-response synchronizer -/

theorem collectOk_unobserved {ch : ChanState} {dw : WriteProcState} (busy : ch = .awaitDeviceReady → dw ≠ .idle)
    (held : Bool) : CollectOk false false ch dw held :=
  ⟨nofun, nofun, fun _ => busy, nofun, nofun⟩

section
variable {ch : ChanState} {dw dw' : WriteProcState} {valid dev : Bool}
  (flag : dev = true ↔ dw = .ack) (compute : dw = .compute → dw' ≠ .idle)
include flag compute

/-- A channel that holds a captured item only while `DW` is busy goes on doing so, unless it captures one now. -/
theorem busy_next (busy : ch = .awaitDeviceReady → dw ≠ .idle) (noCapture : ch = .awaitValid → valid = false) :
    ch.next valid dev = .awaitDeviceReady → dw' ≠ .idle := by
  intro captured
  cases ch with
  | readyHigh => exact nomatch captured
  | awaitValid => simp [ChanState.next, noCapture rfl] at captured
  | awaitDeviceReady =>
    cases dw with
    | idle => exact absurd rfl (busy rfl)
    | compute => exact compute rfl
    | ack => simp [ChanState.next, flag.mpr rfl] at captured

/-- One tick of one side while it collects: the sticky flags take the port's valid and the channel's ready, the channel
moves, `DW` performs nothing, and the master holds a valid that is not yet answered. -/
theorem collectOk_next {sv sr ready held : Bool} (side : CollectOk sv sr ch dw valid)
    (readyFlag : ready = true ↔ ch = .awaitValid) (awaits : ch = .awaitValid → dw = .idle)
    (rests : dw = .idle → dw' = .idle) (holds : valid = true → ready = false → held = true) :
    CollectOk (sv || valid) (sr || ready) (ch.next valid dev) dw' held := by
  obtain ⟨both, readyOnly, unobserved, idle, heldNow⟩ := side
  have notDev (h : dw = .idle) : dev = false := Bool.eq_false_iff.mpr fun hdev => by simp [flag.mp hdev] at h
  cases sr with
  | true =>
    have hdev := notDev (idle rfl)
    cases sv with
    | true => simp [CollectOk, ChanState.next, both rfl rfl, hdev, rests (idle rfl)]
    | false => cases valid <;> simp [CollectOk, ChanState.next, readyOnly rfl rfl, rests (idle rfl)]
  | false =>
    by_cases awaiting : ch = .awaitValid
    · have svValid : (sv || valid) = valid := by
        cases sv with
        | true => simpa using (heldNow rfl rfl).symm
        | false => rfl
      rw [svValid, readyFlag.mpr awaiting, awaiting]
      cases valid <;> simp [CollectOk, ChanState.next, rests (awaits awaiting)]
    · have notReady : ready = false := Bool.eq_false_iff.mpr fun h => awaiting (readyFlag.mp h)
      rw [notReady]
      refine ⟨nofun, nofun, fun _ => busy_next flag compute (unobserved rfl) (fun h => absurd h awaiting), nofun,
        fun observed _ => holds ?_ notReady⟩
      cases sv with
      | true => exact heldNow rfl rfl
      | false => exact observed

end

/-! ### The write response -/

section
variable {s : State} (hs : s.Coherent)
include hs

/-- While `B` collects, a request that meets an idle `DW` has all four flags observed: each side's handshake is this
write's (R93). -/
theorem allObserved_of_request (hb : s.ResponseOk) (collect : s.b.state = .collect) (idle : s.dw.state = .idle)
    (request : s.devWvalid = true) : s.b.allObserved = true := by
  obtain ⟨aw, w⟩ := (devWvalid_iff hs).mp request
  obtain ⟨⟨-, awReadyOnly, awUnobserved, -⟩, -, wReadyOnly, wUnobserved, -⟩ := hb.1 collect
  have sAwr : s.b.sAwr = true := Bool.of_not_eq_false fun h => awUnobserved h aw idle
  have sWr : s.b.sWr = true := Bool.of_not_eq_false fun h => wUnobserved h w idle
  have sAwv : s.b.sAwv = true := Bool.of_not_eq_false fun h => by simp [aw] at awReadyOnly; simp [awReadyOnly h] at sAwr
  have sWv : s.b.sWv = true := Bool.of_not_eq_false fun h => by simp [w] at wReadyOnly; simp [wReadyOnly h] at sWr
  simp [RespChannel.allObserved, sAwr, sWr, sAwv, sWv]

/-- With all four flags observed, both channels hold a captured item and `DW` has not yet taken it up (R91, R93). -/
theorem captured_of_allObserved (hb : s.ResponseOk) (collect : s.b.state = .collect)
    (all : s.b.allObserved = true) : s.devWvalid = true ∧ s.dw.state = .idle := by
  obtain ⟨⟨aw, -, -, idle, -⟩, w, -⟩ := hb.1 collect
  simp only [RespChannel.allObserved, Bool.and_eq_true] at all
  obtain ⟨⟨⟨sAwv, sAwr⟩, sWv⟩, sWr⟩ := all
  exact ⟨(devWvalid_iff hs).mpr ⟨aw sAwv sAwr, w sWv sWr⟩, idle sAwr⟩

end

/-- A channel that awaits a valid finds `DW` idle: a procedure that is not idle has its request or has just released it
(R119). -/
theorem dw_idle_of_awaiting {s : State} (hs : s.Coherent) (hh : s.HandshakeOk)
    (awaiting : s.aw.state = .awaitValid ∨ s.w.state = .awaitValid) : s.dw.state = .idle := by
  obtain ⟨whileCompute, whileAck, -⟩ := hh
  have noRequest : ¬ s.devWvalid = true := fun request => by
    obtain ⟨aw, w⟩ := (devWvalid_iff hs).mp request
    simp [aw, w] at awaiting
  cases hd : s.dw.state with
  | idle => rfl
  | compute => exact absurd (whileCompute hd) noRequest
  | ack =>
    obtain request | ⟨aw, w⟩ := whileAck hd
    · exact absurd request noRequest
    · simp [aw, w] at awaiting

/-- Settles O47: while `B` collects each side keeps its part (`collectOk_next`) or the response rises and `DW` takes the
write up; while it responds no new item is captured, so a captured one keeps `DW` busy. -/
theorem conformantStepsKeepTheResponseInvariant : Obligations.ConformantStepsKeepTheResponseInvariant := by
  rintro s t ⟨-, hs, -, -, hh, -⟩ hb master oneWrite h
  obtain ⟨-, ⟨-, rfl⟩ | ⟨hr, -⟩⟩ := step_cases h
  · have fresh := collectOk_unobserved (ch := .readyHigh) (dw := .idle) nofun
    exact ⟨fun _ => ⟨fresh _, fresh _⟩, nofun⟩
  have dwFlag : s.dw.ready = true ↔ s.dw.state = .ack := hs.2.2.2.2.2.1
  have compute (hc : s.dw.state = .compute) : t.dw.state ≠ .idle := by simp [step_dw_computes hr h hc]
  have aw := step_aw_state hr h
  have w := step_w_state hr h
  have b := step_b hr h
  cases hbs : s.b.state with
  | collect =>
    rw [nextB_collect s _ hbs] at b
    cases all : s.b.allObserved with
    | true =>
      obtain ⟨request, idle⟩ := captured_of_allObserved hs hb hbs all
      have taken := step_dw_takes hr h idle request
      refine ⟨fun collect => ?_, fun _ => ⟨fun _ => taken, fun _ => taken⟩⟩
      simp [b, all] at collect
    | false =>
      have rests (idle : s.dw.state = .idle) : t.dw.state = .idle := by
        have noRequest : s.devWvalid = false := Bool.eq_false_iff.mpr fun request => by
          simp [allObserved_of_request hs hb hbs idle request] at all
        rw [dw_waits_for_request hr h idle noRequest, idle]
      obtain ⟨awSide, wSide⟩ := hb.1 hbs
      rw [hr, Bool.or_false] at awSide wSide
      have next (hn : t.input.reset = false) := master hr ((congrArg Input.reset (step_input h)).symm.trans hn)
      simp only [State.ResponseOk, b, all, aw, w]
      refine ⟨fun _ => ⟨?_, ?_⟩, fun respond => by simp [hbs] at respond⟩
      · refine collectOk_next dwFlag compute awSide hs.1.1 (fun hc => dw_idle_of_awaiting hs hh (.inl hc)) rests ?_
        intro valid ready
        cases hn : t.input.reset with
        | true => simp
        | false => rw [step_input h, ((next hn).1 valid ready).1]; rfl
      · refine collectOk_next dwFlag compute wSide hs.2.1.1 (fun hc => dw_idle_of_awaiting hs hh (.inr hc)) rests ?_
        intro valid ready
        cases hn : t.input.reset with
        | true => simp
        | false => rw [step_input h, ((next hn).2.1 valid ready).1]; rfl
  | respond =>
    obtain ⟨awBusy, wBusy⟩ := hb.2 hbs
    obtain ⟨noAw, noW⟩ := oneWrite hr hbs
    have awNext : t.aw.state = .awaitDeviceReady → t.dw.state ≠ .idle := by
      rw [aw]
      exact busy_next dwFlag compute awBusy fun hc => by simpa [State.awHandshake, hs.1.1.mpr hc] using noAw
    have wNext : t.w.state = .awaitDeviceReady → t.dw.state ≠ .idle := by
      rw [w]
      exact busy_next dwFlag compute wBusy fun hc => by simpa [State.wHandshake, hs.2.1.1.mpr hc] using noW
    refine ⟨fun collect => ?_, fun _ => ⟨awNext, wNext⟩⟩
    rw [nextB_respond s _ hbs] at b
    cases accepted : s.input.bready with
    | true =>
      simp only [b, accepted, if_true]
      exact ⟨collectOk_unobserved awNext _, collectOk_unobserved wNext _⟩
    | false => simp [b, accepted, hbs] at collect

/-- Settles O48: the response rises only from four observed flags, which mean two captured items. -/
theorem responseRisesOnlyAfterBothHandshakes : Obligations.ResponseRisesOnlyAfterBothHandshakes := by
  rintro s t ⟨-, hs, -⟩ hb h down up
  obtain ⟨-, ⟨-, rfl⟩ | ⟨hr, -⟩⟩ := step_cases h
  · exact nomatch up
  have b := step_b hr h
  have collect : s.b.state = .collect := by
    cases hbs : s.b.state with
    | collect => rfl
    | respond => exact absurd (hs.2.2.2.1.mpr hbs) (by simp [down])
  rw [nextB_collect s _ collect] at b
  have all : s.b.allObserved = true := Bool.of_not_eq_false fun hall => by simp [b, hall, down] at up
  obtain ⟨request, -⟩ := captured_of_allObserved hs hb collect all
  simpa [State.devWvalid] using request

/-- Settles O49: `DW` performs the captured write in this tick, and `B`, which must be collecting, has all four flags. -/
theorem everyCapturedWriteIsPerformedAndAnswered : Obligations.EveryCapturedWriteIsPerformedAndAnswered := by
  rintro s ⟨hc, hs, -⟩ hb hr request idle
  obtain ⟨d, hd⟩ := exec_isNext s.writeOperation s
  obtain ⟨r, hr'⟩ := deviceReadTick_isNext s
  have hd' : deviceWriteTick s = .next d := by rw [deviceWriteTick_idle idle, if_pos request, hd]
  have h := step_of_process hc hr hd' hr'
  have collect : s.b.state = .collect := by
    cases hbs : s.b.state with
    | collect => rfl
    | respond => exact absurd idle ((hb.2 hbs).1 ((devWvalid_iff hs).mp request).1)
  have answered : (nextB s s.input).valid = true := by
    rw [nextB_collect s _ collect, if_pos (allObserved_of_request hs hb collect idle request)]
  exact ⟨d, _, hd, h, rfl, rfl, rfl, rfl, step_dw_takes hr h idle request, answered⟩

/-! ### The read data -/

/-- The state element of `R` after a tick (R105 to R107). -/
def ReadState.next (rready ready : Bool) : ReadState → ReadState
  | .idle => if ready then .validate else .idle
  | .validate => if rready then .drain else .validate
  | .drain => if ready then .drain else .idle

theorem nextR_state (s : State) (i : Input) : (nextR s i).state = s.r.state.next i.rready s.dr.ready := by
  cases h : s.r.state with
  | idle => rw [nextR_idle s i h]; cases s.dr.ready <;> simp [ReadState.next, h]
  | validate => rw [nextR_validate s i h]; cases i.rready <;> simp [ReadState.next, h]
  | drain => rw [nextR_drain s i h]; cases s.dr.ready <;> simp [ReadState.next, h]

/-- Settles O50, by where `DR` and its request stand: a request taken up now finds `R` free, one acknowledged now is
presented, and a new one can rise only when `R`'s data has been accepted. -/
theorem conformantStepsKeepTheReadInvariant : Obligations.ConformantStepsKeepTheReadInvariant := by
  rintro s t ⟨-, hs, -, -, ⟨-, -, released⟩, -⟩ ⟨free, acknowledged, -, -⟩ oneRead h
  obtain ⟨-, ⟨-, rfl⟩ | ⟨hr, -⟩⟩ := step_cases h
  · exact ⟨nofun, nofun, nofun, nofun⟩
  have arFlag : t.ar.auxValid = true ↔ t.ar.state = .awaitDeviceReady := (step_coherent hs h).2.2.1.2
  have dr := step_dr_state hr h
  have ar := step_ar_state hr h
  have r : t.r.state = s.r.state.next s.input.rready s.dr.ready := by rw [step_r hr h, nextR_state]
  cases request : s.ar.auxValid with
  | true =>
    rw [if_pos request] at dr
    cases hd : s.dr.state with
    | idle =>
      have ready := dr_notReady hs (by simp [hd])
      have holds := (step_ar_of_request hs hr h request).1 ready
      have idle : t.r.state = .idle := by
        rw [r, ready]
        cases hrs : s.r.state with
        | idle | drain => rfl
        | validate => exact absurd hrs (free request hd)
      simp [State.ReadOk, dr, holds, idle]
    | ack =>
      have ready := hs.2.2.2.2.2.2.mpr hd
      have release : t.ar.auxValid = false := Bool.eq_false_iff.mpr fun up =>
        nomatch (arFlag.mp up).symm.trans ((step_ar_of_request hs hr h request).2 ready)
      have validate : t.r.state = .validate := by rw [r, ready, acknowledged request hd]; rfl
      simp [State.ReadOk, dr, release, validate]
  | false =>
    rw [if_neg (by simp [request])] at dr
    have accepted (up : t.ar.auxValid = true) : t.r.state ≠ .validate := by
      rw [arFlag, ar] at up
      have awaiting : s.ar.state = .awaitValid ∧ s.input.arvalid = true := by
        cases har : s.ar.state with
        | readyHigh => simp [har, ChanState.next] at up
        | awaitValid => simpa [har, ChanState.next] using up
        | awaitDeviceReady => exact absurd (hs.2.2.1.2.mpr har) (by simp [request])
      have ready : s.dr.ready = false := dr_notReady hs fun ack => by
        simpa [request, awaiting.1] using released ack
      rw [r, ready]
      cases hrs : s.r.state with
      | idle | drain => exact nofun
      | validate =>
        have handshake := oneRead hr hrs (by rw [State.arHandshake, awaiting.2, hs.2.2.1.1.mpr awaiting.1]; rfl)
        simp only [State.rHandshake, Bool.and_eq_true] at handshake
        simp [ReadState.next, handshake.2]
    simpa [State.ReadOk, dr] using accepted

/-- Settles O51: `DR` takes the read up in the first tick, and `R`, free by then, presents its result in the second. -/
theorem everyCapturedReadIsPresentedTwoTicksLater : Obligations.EveryCapturedReadIsPresentedTwoTicksLater := by
  rintro s ⟨hc, hs, -⟩ ⟨free, -⟩ hr hr' request idle
  obtain ⟨d, hd⟩ := exec_isNext s.readOperation s
  have hd' : deviceReadTick s = .next d := by rw [deviceReadTick_idle idle, if_pos request, hd]
  obtain ⟨t, h⟩ := step_isNext hc
  obtain ⟨u, h'⟩ := step_isNext ((congrArg Cfg.wf (step_cfg_inputs h).1).trans hc)
  have noReset : t.input.reset = false := by rw [step_input h, hr']
  have ready : t.dr.ready = true := by
    rw [(step_coherent hs h).2.2.2.2.2.2, step_dr_state hr h, if_pos request]
  have ridle : t.r.state = .idle := by
    rw [step_r hr h, nextR_state, dr_notReady hs (by simp [idle])]
    cases hrs : s.r.state with
    | idle | drain => rfl
    | validate => exact absurd hrs (free request idle)
  have presented : u.r = { state := .validate, valid := true, data := d.dr.rdata } := by
    rw [step_r noReset h', nextR_idle t _ ridle, if_pos ready, step_dr hr h hd']
  exact ⟨d, t, u, hd, h, h', by rw [presented], by rw [presented]⟩

/-! ### A request begins, and ready after a capture -/

/-- Settles O46: `DW` with no request is idle or becomes so, for its request cannot be missing in the compute step; `DR`
is idle after every tick without a request. -/
theorem deviceIsIdleWhenARequestBegins : Obligations.DeviceIsIdleWhenARequestBegins := by
  rintro s t ⟨-, -, -, -, ⟨whileCompute, -⟩, -⟩ h
  obtain ⟨-, ⟨-, rfl⟩ | ⟨hr, -⟩⟩ := step_cases h
  · exact ⟨fun _ _ => rfl, fun _ _ => rfl⟩
  refine ⟨fun down _ => ?_, fun down _ => by simp [step_dr_state hr h, down]⟩
  obtain ⟨d, r, hd, -, rfl⟩ := step_ticks hr h
  cases hd with
  | performs _ request | holds _ request => exact absurd (down.symm.trans request) nofun
  | rests idle => exact idle
  | computes compute => exact absurd (down.symm.trans (whileCompute compute)) nofun
  | releases => rfl

end Sys2Proof.Machine

/-! PROOFS. What a step can change and when: ready after a capture (40_write_channels.md R87), the interrupt line
(10_state.md R29, 60_exceptions.md R147), the storage (10_state.md R28) and the process states
(44_control_and_arithmetic.md R124). -/

namespace Sys2Proof.Machine

open Sys2Proof Config

/-! ### Ready after a capture -/

/-- One channel from its handshake on: `chan` is its state element, `ready` and `valid` the handshake's two signals, `dev`
the device's answer. It holds the captured item in the next tick and does not await a valid in the tick after it; if the
device does not answer in the next tick, not in the third either, with or without a reset in between. -/
theorem ready_low_after_capture {chan : State → ChanState} {ready valid dev : State → Bool}
    (flag : ∀ {s}, s.Coherent → (ready s = true ↔ chan s = .awaitValid))
    (rule : ∀ {s t}, s.input.reset = false → step s = .next t → chan t = (chan s).next (valid s) (dev s))
    (onReset : ∀ s : State, chan s.resetTick = .readyHigh) {s t u v : State} (hs : s.Coherent)
    (hr : s.input.reset = false) (hr' : t.input.reset = false) (h : step s = .next t) (h' : step t = .next u)
    (h'' : step u = .next v) (handshake : (valid s && ready s) = true) :
    ready t = false ∧ ready u = false ∧ (dev t = false → ready v = false) := by
  have low {s : State} (hs : s.Coherent) (away : chan s ≠ .awaitValid) : ready s = false :=
    Bool.eq_false_iff.mpr fun up => away ((flag hs).mp up)
  have ht := step_coherent hs h
  have hu := step_coherent ht h'
  obtain ⟨presented, up⟩ := (Bool.and_eq_true ..).mp handshake
  have captured : chan t = .awaitDeviceReady := by rw [rule hr h, (flag hs).mp up, presented]; rfl
  have next := rule hr' h'
  rw [captured] at next
  refine ⟨low ht (by simp [captured]), low hu ?_, fun unanswered => low (step_coherent hu h'') ?_⟩
  · rw [next]
    cases dev t <;> exact nofun
  · rw [unanswered] at next
    obtain ⟨-, ⟨-, rfl⟩ | ⟨hr'', -⟩⟩ := step_cases h''
    · rw [onReset]; exact nofun
    · rw [rule hr'' h'', next]
      cases dev u <;> exact nofun

/-- A write channel that awaits its valid is not answered in the next tick: `DW` is idle without a request (R119). -/
theorem step_dw_low {s t : State} (hs : s.Coherent) (hh : s.HandshakeOk) (hr : s.input.reset = false)
    (h : step s = .next t) (awaiting : s.aw.state = .awaitValid ∨ s.w.state = .awaitValid) :
    t.dw.ready = false := by
  have idle := dw_idle_of_awaiting hs hh awaiting
  have noRequest : s.devWvalid = false := Bool.eq_false_iff.mpr fun request => by
    obtain ⟨aw, w⟩ := (devWvalid_iff hs).mp request
    simp [aw, w] at awaiting
  rw [dw_waits_for_request hr h idle noRequest, dw_notReady hs (by simp [idle])]

/-- The read channel that awaits its valid is not answered in the next tick: `DR` has no request (R135). -/
theorem step_dr_low {s t : State} (hs : s.Coherent) (hr : s.input.reset = false) (h : step s = .next t)
    (awaiting : s.ar.state = .awaitValid) : t.dr.ready = false := by
  have noRequest : ¬ s.ar.auxValid = true := fun request => by
    simp [hs.2.2.1.2.mp request] at awaiting
  exact dr_notReady (step_coherent hs h) (by simp [step_dr_state hr h, noRequest])

/-- Settles O52: after the handshake the channel holds a captured item. In states of the invariant the device is idle
while a channel awaits its valid, so it cannot answer in the next tick. -/
theorem readyStaysLowAfterACapture : Obligations.ReadyStaysLowAfterACapture := by
  intro s hc hs hr hr'
  obtain ⟨t, h⟩ := step_isNext hc
  have hct : t.cfg.wf = true := (congrArg Cfg.wf (step_cfg_inputs h).1).trans hc
  obtain ⟨u, h'⟩ := step_isNext hct
  obtain ⟨v, h''⟩ := step_isNext ((congrArg Cfg.wf (step_cfg_inputs h').1).trans hct)
  have noReset : t.input.reset = false := by rw [step_input h, hr']
  refine ⟨t, u, v, h, h', h'', fun handshake => ?_, fun handshake => ?_, fun handshake => ?_⟩
  · have awaiting := hs.1.1.mp (Bool.and_elim_right handshake)
    obtain ⟨first, second, third⟩ := ready_low_after_capture (chan := (·.aw.state)) (ready := (·.aw.ready))
      (valid := (·.input.awvalid)) (fun hs => hs.1.1) step_aw_state (fun _ => rfl) hs hr noReset h h' h'' handshake
    exact ⟨first, second, fun ⟨_, _, _, _, hh, _⟩ => third (step_dw_low hs hh hr h (.inl awaiting))⟩
  · have awaiting := hs.2.1.1.mp (Bool.and_elim_right handshake)
    obtain ⟨first, second, third⟩ := ready_low_after_capture (chan := (·.w.state)) (ready := (·.w.ready))
      (valid := (·.input.wvalid)) (fun hs => hs.2.1.1) step_w_state (fun _ => rfl) hs hr noReset h h' h'' handshake
    exact ⟨first, second, fun ⟨_, _, _, _, hh, _⟩ => third (step_dw_low hs hh hr h (.inr awaiting))⟩
  · have awaiting := hs.2.2.1.1.mp (Bool.and_elim_right handshake)
    obtain ⟨first, second, third⟩ := ready_low_after_capture (chan := (·.ar.state)) (ready := (·.ar.ready))
      (valid := (·.input.arvalid)) (fun hs => hs.2.2.1.1) step_ar_state (fun _ => rfl) hs hr noReset h h' h'' handshake
    exact ⟨first, second, fun _ => third (step_dr_low hs hr h awaiting)⟩

/-! ### The interrupt line -/

/-- A write to register 0 is a control write: it starts the compute step, or clears `irq` (R112). -/
theorem WriteEffect.of_control {c : Cfg} {a : Nat} {data : Word} {strb : Strobe} {s d : State}
    (h : WriteEffect c a data strb s d) (control : a < 4) :
    (goBit (merge (s.readReg 0) data strb) = true ∧ d = (s.mergeReg 0 data strb).startCompute) ∨
    (goBit (merge (s.readReg 0) data strb) = false ∧ d = ((s.mergeReg 0 data strb).setIrq false).completeWrite) := by
  have reg : region c a = .reg := region_eq_reg.mpr (by omega)
  cases h with
  | startsCompute _ go => exact .inl ⟨go, rfl⟩
  | clearsIrq _ go => exact .inr ⟨go, rfl⟩
  | mergesReg _ plain => exact absurd (regIndex_of_control control) plain
  | writesIbuf ibuf => exact nomatch reg.symm.trans ibuf
  | storesNothing outside => simp [reg] at outside

/-- A control write leaves `irq` equal to the control bit, or the compute step running (R29 (b), R112). -/
theorem irqAgrees_of_control {a : Nat} {data : Word} {strb : Strobe} {c : Cfg} {s d : State}
    (h : WriteEffect c a data strb s d) (control : a < 4) : d.IrqAgrees := by
  obtain ⟨-, rfl⟩ | ⟨go, rfl⟩ := h.of_control control
  · exact fun notCompute => absurd rfl notCompute
  · exact fun _ => by simpa using go.symm

/-- A device write tick keeps `irq` equal to the control bit outside the compute step (R29 (b)). -/
theorem WriteTick.irqAgrees {s d : State} (h : WriteTick s d) (trigger : s.TriggerOk) (agrees : s.IrqAgrees) :
    d.IrqAgrees := by
  cases h with
  | performs idle request effect =>
    have before : s.irq = goBit (s.readReg 0) := agrees (by simp [idle])
    cases effect with
    | startsCompute control go => exact fun notCompute => absurd rfl notCompute
    | clearsIrq control go => exact fun _ => by simpa using go.symm
    | mergesReg reg plain => exact fun _ => by simpa [plain] using before
    | writesIbuf | storesNothing => exact fun _ => before
  | rests | holds => exact agrees
  | computes compute => exact fun _ => (trigger.1 compute).symm
  | releases ack => exact fun _ => agrees (by simp [ack])

/-- Settles O42, by the forms of the device write tick. -/
theorem interruptFollowsTheControlBit : Obligations.InterruptFollowsTheControlBit := by
  intro s t trigger hr h
  obtain ⟨d, r, hd, -, rfl⟩ := step_ticks hr h
  refine ⟨fun agrees => hd.irqAgrees trigger agrees, fun idle request control => ?_⟩
  cases hd with
  | performs _ _ effect =>
    have agrees : d.IrqAgrees := irqAgrees_of_control effect control
    exact agrees
  | rests _ noRequest => exact nomatch noRequest.symm.trans request
  | computes compute => exact nomatch idle.symm.trans compute
  | holds ack | releases ack => exact nomatch idle.symm.trans ack

/-- Settles O43: of the forms of a tick only three assign `irq` another value. -/
theorem onlyControlWritesAndResetChangeTheInterrupt : Obligations.OnlyControlWritesAndResetChangeTheInterrupt := by
  intro s t h changed
  obtain ⟨-, ⟨hr, rfl⟩ | ⟨hr, -⟩⟩ := step_cases h
  · exact .inl ⟨hr, rfl⟩
  obtain ⟨d, r, hd, -, rfl⟩ := step_ticks hr h
  cases hd with
  | performs idle request effect =>
    cases effect with
    | clearsIrq control go => exact .inr (.inr ⟨hr, idle, request, control, go, rfl⟩)
    | startsCompute | mergesReg | writesIbuf | storesNothing => exact absurd rfl changed
  | rests | holds | releases => exact absurd rfl changed
  | computes compute => exact .inr (.inl ⟨hr, compute, rfl⟩)

/-! ### The storage -/

section
variable {c : Cfg} {a : Nat} {data : Word} {strb : Strobe} {s d : State} (h : WriteEffect c a data strb s d)
include h

/-- A performed write changes at most the register it addresses, which takes the merge (R112, R113). -/
theorem WriteEffect.readReg_ne {j : Fin 16} (changed : d.readReg j ≠ s.readReg j) :
    a < 64 ∧ j = regIndex a ∧ d.readReg j = merge (s.readReg j) data strb := by
  cases h with
  | startsCompute control go | clearsIrq control go =>
    have addressed : (0 : Fin 16) = j := by
      by_contra other
      simp [other] at changed
    refine ⟨by omega, ?_, ?_⟩
    · rw [regIndex_of_control control, addressed]
    · subst addressed; simp
  | mergesReg reg plain =>
    have addressed : regIndex a = j := by
      by_contra other
      simp [other] at changed
    subst addressed
    exact ⟨reg, rfl, by simp⟩
  | writesIbuf | storesNothing => simp at changed

/-- A performed write changes InputBuffer bytes of one word only, and only enabled ones (R114). -/
theorem WriteEffect.ibuf_ne {k : Nat} (changed : d.ibuf.read k ≠ s.ibuf.read k) :
    region c a = .ibuf ∧ wordByteIndex (wordIndex c.rfileOffset a) ≤ k ∧
      k < wordByteIndex (wordIndex c.rfileOffset a) + 4 ∧
      laneEnabled strb (k - wordByteIndex (wordIndex c.rfileOffset a)) = true := by
  cases h with
  | writesIbuf ibuf =>
    by_contra outside
    apply changed
    rw [State.completeWrite_ibuf, State.writeIbuf_ibuf, Mem.read_writeWord,
      if_neg fun inside => outside ⟨ibuf, inside⟩]
  | startsCompute | clearsIrq | mergesReg | storesNothing => exact absurd rfl changed

/-- No performed write changes the OutputBuffer (R115). -/
theorem WriteEffect.obuf_eq : d.obuf = s.obuf := by
  cases h <;> rfl

end

/-- Settles O44: a register and an InputBuffer byte change only by a performed write's effect, an OutputBuffer byte only
by the copy. -/
theorem storageChangesOnlyByItsOwnOperations : Obligations.StorageChangesOnlyByItsOwnOperations := by
  intro s t hr h
  obtain ⟨hc, -⟩ := step_cases h
  obtain ⟨d, r, hd, -, rfl⟩ := step_ticks hr h
  cases hd with
  | performs idle request effect =>
    refine ⟨fun j changed => ?_, fun k changed => ?_, fun k changed => ?_⟩
    · obtain ⟨reg, addressed, merged⟩ := effect.readReg_ne changed
      exact ⟨idle, request, reg, addressed, merged⟩
    · obtain ⟨ibuf, above, below, -⟩ := effect.ibuf_ne changed
      have word := wordByteIndex_wordIndex (Cfg.wf_align hc).1 ((region_eq_ibuf hc).mp ibuf).1
      exact ⟨idle, request, ibuf, by omega, by rw [bpw]; omega⟩
    · exact absurd (congrArg (·.read k) effect.obuf_eq) changed
  | rests | holds | releases =>
    exact ⟨fun _ changed => absurd rfl changed, fun _ changed => absurd rfl changed,
      fun _ changed => absurd rfl changed⟩
  | computes compute =>
    refine ⟨fun _ changed => absurd rfl changed, fun _ changed => absurd rfl changed, fun k changed => ⟨compute, ?_⟩⟩
    by_contra beyond
    apply changed
    rw [assemble_obuf, read_computeTick_obuf, if_neg beyond]

/-! ### The process states -/

/-- A channel's state changes only by a row of R124's table. -/
theorem ChanState.next_ne {st : ChanState} {valid dev : Bool} (changed : st.next valid dev ≠ st) :
    (st = .readyHigh ∧ st.next valid dev = .awaitValid) ∨
    (st = .awaitValid ∧ valid = true ∧ st.next valid dev = .awaitDeviceReady) ∨
    (st = .awaitDeviceReady ∧ dev = true ∧ st.next valid dev = .readyHigh) := by
  cases st with
  | readyHigh => exact .inl ⟨rfl, rfl⟩
  | awaitValid =>
    cases valid with
    | false => exact absurd rfl changed
    | true => exact .inr (.inl ⟨rfl, rfl, rfl⟩)
  | awaitDeviceReady =>
    cases dev with
    | false => exact absurd rfl changed
    | true => exact .inr (.inr ⟨rfl, rfl, rfl⟩)

theorem ReadState.next_ne {st : ReadState} {rready ready : Bool} (changed : st.next rready ready ≠ st) :
    (st = .idle ∧ ready = true ∧ st.next rready ready = .validate) ∨
    (st = .validate ∧ rready = true ∧ st.next rready ready = .drain) ∨
    (st = .drain ∧ ready = false ∧ st.next rready ready = .idle) := by
  cases st with
  | idle =>
    cases ready with
    | false => exact absurd rfl changed
    | true => exact .inl ⟨rfl, rfl, rfl⟩
  | validate =>
    cases rready with
    | false => exact absurd rfl changed
    | true => exact .inr (.inl ⟨rfl, rfl, rfl⟩)
  | drain =>
    cases ready with
    | true => exact absurd rfl changed
    | false => exact .inr (.inr ⟨rfl, rfl, rfl⟩)

theorem nextB_state_ne {s : State} {i : Input} (changed : (nextB s i).state ≠ s.b.state) :
    (s.b.state = .collect ∧ s.b.allObserved = true ∧ (nextB s i).state = .respond) ∨
    (s.b.state = .respond ∧ i.bready = true ∧ (nextB s i).state = .collect) := by
  cases hs : s.b.state with
  | collect =>
    rw [nextB_collect s i hs] at changed ⊢
    cases all : s.b.allObserved with
    | true => exact .inl ⟨rfl, rfl, rfl⟩
    | false => simp [all] at changed
  | respond =>
    rw [nextB_respond s i hs] at changed ⊢
    cases accepted : i.bready with
    | true => exact .inr ⟨rfl, rfl, rfl⟩
    | false => simp [accepted] at changed

theorem WriteTick.state_ne {s d : State} (h : WriteTick s d) (changed : d.dw.state ≠ s.dw.state) :
    (s.dw.state = .idle ∧ s.devWvalid = true ∧ s.aw.addr < bpw ∧
      goBit (merge (s.readReg 0) s.w.data s.w.strb) = true ∧ d.dw.state = .compute) ∨
    (s.dw.state = .idle ∧ s.devWvalid = true ∧
      ¬ (s.aw.addr < bpw ∧ goBit (merge (s.readReg 0) s.w.data s.w.strb) = true) ∧ d.dw.state = .ack) ∨
    (s.dw.state = .compute ∧ d.dw.state = .ack) ∨
    (s.dw.state = .ack ∧ s.devWvalid = false ∧ d.dw.state = .idle) := by
  cases h with
  | performs idle request effect =>
    by_cases trigger : s.aw.addr < bpw ∧ goBit (merge (s.readReg 0) s.w.data s.w.strb) = true
    · obtain ⟨control, go⟩ := trigger
      obtain ⟨-, rfl⟩ | ⟨noGo, -⟩ := effect.of_control control
      · exact .inl ⟨idle, request, control, go, rfl⟩
      · exact nomatch go.symm.trans noGo
    · have done : d.dw.state = .ack := by
        cases effect with
        | startsCompute control go => exact absurd ⟨control, go⟩ trigger
        | clearsIrq | mergesReg | writesIbuf | storesNothing => rfl
      exact .inr (.inl ⟨idle, request, trigger, done⟩)
  | rests | holds => exact absurd rfl changed
  | computes compute => exact .inr (.inr (.inl ⟨compute, rfl⟩))
  | releases ack noRequest => exact .inr (.inr (.inr ⟨ack, noRequest, rfl⟩))

theorem ReadTick.state_ne {s r : State} (h : ReadTick s r) (changed : r.dr.state ≠ s.dr.state) :
    (s.dr.state = .idle ∧ s.ar.auxValid = true ∧ r.dr.state = .ack) ∨
    (s.dr.state = .ack ∧ s.ar.auxValid = false ∧ r.dr.state = .idle) := by
  cases h with
  | presents idle request | draws idle request => exact .inl ⟨idle, request, rfl⟩
  | rests | holds => exact absurd rfl changed
  | releases ack noRequest => exact .inr ⟨ack, noRequest, rfl⟩

/-- Settles O45, process by process. -/
theorem everyControlTransferIsATableRow : Obligations.EveryControlTransferIsATableRow := by
  intro s t hr h
  rw [step_aw_state hr h, step_w_state hr h, step_ar_state hr h, step_b hr h, step_r hr h, nextR_state]
  obtain ⟨d, r, hd, hr', rfl⟩ := step_ticks hr h
  exact ⟨ChanState.next_ne, ChanState.next_ne, nextB_state_ne, ChanState.next_ne, ReadState.next_ne, hd.state_ne,
    hr'.state_ne⟩

end Sys2Proof.Machine

/-! PROOFS. Buffer words by lanes (20_memory.md R47 to R49) and what each operation does with its frame
(42_device_write.md R112 to R116, 43_device_read.md R131 to R134). -/

namespace Sys2Proof.Machine

open Sys2Proof Config

/-! ### Buffer words -/

/-- A word read has the four bytes as its lanes, lowest first (R48, R49). -/
theorem lane_readWord (m : Mem) (k0 : Nat) {i : Nat} (hi : i < 4) : lane i (m.readWord k0) = m.read (k0 + i) := by
  unfold Mem.readWord
  match i, hi with
  | 0, _ => exact lane_wordOfLanes_0 ..
  | 1, _ => exact lane_wordOfLanes_1 ..
  | 2, _ => exact lane_wordOfLanes_2 ..
  | 3, _ => exact lane_wordOfLanes_3 ..

/-- A byte of the word written: the data's lane where the strobe enables it, else the byte as it was (R47). -/
theorem Mem.read_writeWord_lane (m : Mem) (k0 : Nat) (data : Word) (strb : Strobe) {i : Nat} (hi : i < 4) :
    (m.writeWord k0 data strb).read (k0 + i) = if strb.getLsbD i = true then lane i data else m.read (k0 + i) := by
  rw [Mem.read_writeWord, Nat.add_sub_cancel_left]
  simp [hi, laneEnabled]

/-- Bytes outside the word written are as they were (R47). -/
theorem Mem.read_writeWord_outside (m : Mem) (k0 : Nat) (data : Word) (strb : Strobe) {j : Nat}
    (h : ¬ (k0 ≤ j ∧ j < k0 + 4)) : (m.writeWord k0 data strb).read j = m.read j := by
  rw [Mem.read_writeWord, if_neg fun ⟨above, below, _⟩ => h ⟨above, below⟩]

/-- A word written and read back is the merge of the old word with the data. -/
theorem Mem.readWord_writeWord (m : Mem) (k0 : Nat) (data : Word) (strb : Strobe) :
    (m.writeWord k0 data strb).readWord k0 = merge (m.readWord k0) data strb :=
  word_ext_lanes fun i hi => by
    rw [lane_readWord _ k0 hi, lane_merge _ _ _ hi, Mem.read_writeWord_lane m k0 data strb hi, mergeLane,
      lane_readWord m k0 hi]
    rfl

/-- Settles O11: byte by byte, and the word read back lane by lane. -/
theorem bufferWordWriteChangesItsStrobedBytes : Obligations.BufferWordWriteChangesItsStrobedBytes :=
  fun m k0 data strb => ⟨fun _ hi => m.read_writeWord_lane k0 data strb hi,
    fun _ hj => m.read_writeWord_outside k0 data strb hj, fun _ hi => lane_readWord m k0 hi,
    m.readWord_writeWord k0 data strb⟩

/-! ### The control register -/

/-- Settles O12: with `GO` = 1 the write is a merge into register 0 and the start of the compute step. -/
theorem wrCtrlWithGoStartsTheComputeStep : Obligations.WrCtrlWithGoStartsTheComputeStep := by
  intro low data strb s go
  have others (j : Fin 16) (hj : j ≠ 0) : (s.mergeReg 0 data strb).startCompute.readReg j = s.readReg j := by
    simp [hj.symm]
  exact ⟨_, exec_wrCtrl_of_go go low, by simp, others, rfl, rfl, rfl, fun _ => ⟨rfl, rfl⟩, ⟨rfl, rfl⟩,
    rfl, rfl, rfl, rfl, rfl, rfl, rfl⟩

/-- Settles O13: with `GO` = 0 the write is a merge into register 0, `irq` cleared, and a completion. -/
theorem wrCtrlWithoutGoClearsTheInterrupt : Obligations.WrCtrlWithoutGoClearsTheInterrupt := by
  intro low data strb s go
  have others (j : Fin 16) (hj : j ≠ 0) :
      ((s.mergeReg 0 data strb).setIrq false).completeWrite.readReg j = s.readReg j := by
    simp [hj.symm]
  exact ⟨_, exec_wrCtrl_of_not_go go low, by simp, others, rfl, State.completeWrite_writeDone _,
    fun _ => ⟨rfl, rfl⟩, ⟨rfl, rfl⟩, rfl, rfl, rfl, rfl, rfl, rfl, rfl⟩

/-- Settles O14: the control bit lies in lane 0, which the merge takes from the data or from the old value. -/
theorem controlBitComesFromTheStrobedLane : Obligations.ControlBitComesFromTheStrobedLane := by
  intro old data strb
  have bit7 (v : Word) : (lane 0 v).getLsbD 7 = v.getLsbD 7 := by rw [getLsbD_lane]; rfl
  rw [goBit_eq_lane, lane_merge old data strb (by decide)]
  by_cases enabled : strb.getLsbD 0 = true
  · rw [if_pos enabled, mergeLane_of_enabled enabled, bit7]
  · rw [if_neg enabled, mergeLane_of_not_enabled enabled, bit7]

/-! ### The other writes -/

/-- Settles O16: the write is a strobed word write into the InputBuffer and a completion. -/
theorem wrIbufWritesTheStrobedLanes : Obligations.WrIbufWritesTheStrobedLanes :=
  fun k low data strb s => ⟨_, exec_wrIbuf k low data strb s,
    fun _ hi => s.ibuf.read_writeWord_lane (wordByteIndex k) data strb hi,
    fun _ hj => s.ibuf.read_writeWord_outside (wordByteIndex k) data strb hj,
    fun _ => rfl, fun _ => rfl, rfl, State.completeWrite_writeDone _, ⟨rfl, rfl⟩, rfl, rfl, rfl, rfl, rfl, rfl, rfl⟩

/-- A completed write without a store changes `DW` only (R110). -/
theorem State.completeWrite_frame (s : State) :
    s.SameRegs s.completeWrite ∧ s.SameBytes s.completeWrite ∧ s.completeWrite.irq = s.irq ∧
      s.completeWrite.WriteDone ∧ s.SameReadProc s.completeWrite ∧ s.SameChannels s.completeWrite :=
  ⟨fun _ => rfl, fun _ => ⟨rfl, rfl⟩, rfl, s.completeWrite_writeDone, ⟨rfl, rfl⟩, rfl, rfl, rfl, rfl, rfl, rfl, rfl⟩

/-- Settles O17: both operations are their completion. -/
theorem wrObufAndWrUnmappedChangeNoStorage : Obligations.WrObufAndWrUnmappedChangeNoStorage := by
  intro i s h
  have completes : exec i s = .next s.completeWrite := by
    obtain ⟨k, low, data, strb, rfl⟩ | ⟨a, data, strb, rfl⟩ := h
    · exact exec_wrObuf k low data strb s
    · exact exec_wrUnmapped a data strb s
  exact ⟨_, completes, s.completeWrite_frame⟩

/-- Settles O18: a register that changes takes the merge, which keeps the unstrobed lanes; an InputBuffer byte that
changes has its strobe bit set; the OutputBuffer does not change. -/
theorem partialStrobeWritesKeepTheOtherLanes : Obligations.PartialStrobeWritesKeepTheOtherLanes := by
  intro c a data strb s
  obtain ⟨t, h⟩ := exec_isNext (decodeWrite c a data strb) s
  have effect := writeEffect_of_exec h
  refine ⟨t, h, fun j i hi unstrobed => ?_, fun k unstrobed => ?_, fun k => by rw [effect.obuf_eq]⟩
  · by_cases same : t.readReg j = s.readReg j
    · rw [same]
    · obtain ⟨-, -, merged⟩ := effect.readReg_ne same
      rw [merged, lane_merge _ _ _ hi, mergeLane_of_not_enabled (Bool.eq_false_iff.mp unstrobed)]
  · by_contra changed
    obtain ⟨-, above, below, enabled⟩ := effect.ibuf_ne changed
    rw [wordByteIndex, bpw] at above below enabled
    rw [laneEnabled, show k - 4 * wordIndex c.rfileOffset a = k % 4 by omega, unstrobed] at enabled
    exact nomatch enabled

/-! ### The reads -/

/-- Settles O20: the read is a completion with the register's value. -/
theorem rdRegReturnsTheRegister : Obligations.RdRegReturnsTheRegister :=
  fun idx low s => ⟨_, exec_rdReg idx low s, s.completeRead_frame (s.readReg idx)⟩

/-- Settles O21: the read is a completion with the OutputBuffer word, whose lanes are its four bytes. -/
theorem rdObufReturnsTheOutputWord : Obligations.RdObufReturnsTheOutputWord := by
  intro k low s
  obtain ⟨done, frame⟩ := s.completeRead_frame (s.obuf.readWord (wordByteIndex k))
  exact ⟨_, _, exec_rdObuf k low s, done, fun _ hi => lane_readWord s.obuf (wordByteIndex k) hi, frame⟩

/-- Settles O22: both reads are a completion with the draw of the counter, which moves on. -/
theorem rdIbufAndRdUnmappedReturnADraw : Obligations.RdIbufAndRdUnmappedReturnADraw := by
  intro i s h
  have drawn : exec i s = .next (s.completeRead s.anyM).nextDraw := by
    obtain ⟨k, low, rfl⟩ | ⟨a, rfl⟩ := h
    · exact exec_rdIbuf k low s
    · exact exec_rdUnmapped a s
  exact ⟨_, drawn, ⟨rfl, rfl, rfl⟩, rfl, fun _ => rfl, fun _ => ⟨rfl, rfl⟩, rfl, rfl, rfl, rfl, rfl, rfl, rfl, rfl,
    rfl⟩

end Sys2Proof.Machine

/-! PROOFS. One step: the operation a captured transaction is (00_scope.md R4, 42_device_write.md R110, 43_device_read.md
R130), each channel's rules (40_write_channels.md, 41_read_channels.md), the compute step and the reset tick. -/

namespace Sys2Proof.Machine

open Sys2Proof Config

/-! ### The captured operation -/

/-- A step is refused for its configuration only (R3). -/
theorem step_refused {s : State} (hc : s.cfg.wf = false) : step s = .refused .configNotWellFormed := by
  simp [step, hc]

/-- Settles O27. -/
theorem stepIsRefusedOnlyForIllFormedConfigurations : Obligations.StepIsRefusedOnlyForIllFormedConfigurations :=
  fun _ => ⟨step_isNext, step_refused⟩

/-- Settles O24: the captured bytes decode to `DW`'s operation, which `DW` performs in this tick. -/
theorem stepPerformsTheCapturedWrite : Obligations.StepPerformsTheCapturedWrite := by
  rintro s i hc ⟨fits, -⟩ hr idle request hdecode
  have decoded := decode_bytes (t := .write s.aw.addr s.w.data s.w.strb) fits []
  rw [List.append_nil, hdecode] at decoded
  obtain rfl : i = s.writeOperation := congrArg Prod.fst (Except.ok.inj decoded)
  obtain ⟨d, hd⟩ := exec_isNext s.writeOperation s
  obtain ⟨r, hr'⟩ := deviceReadTick_isNext s
  have hd' : deviceWriteTick s = .next d := by rw [deviceWriteTick_idle idle, if_pos request, hd]
  refine ⟨(decodeWrite_selects hc fits _ _).1, d, _, hd, step_of_process hc hr hd' hr', rfl, rfl, rfl, rfl, rfl, rfl,
    rfl, rfl, rfl, rfl, rfl, rfl, fun readIdle noRequest => ?_⟩
  rw [deviceReadTick_idle readIdle, if_neg (by simp [noRequest])] at hr'
  cases hr'
  exact ⟨rfl, rfl⟩

/-- Settles O25: the captured bytes decode to `DR`'s operation, which `DR` performs in this tick. -/
theorem stepPerformsTheCapturedRead : Obligations.StepPerformsTheCapturedRead := by
  rintro s i hc ⟨-, fits⟩ hr idle request hdecode
  have decoded := decode_bytes (t := .read s.ar.addr) fits []
  rw [List.append_nil, hdecode] at decoded
  obtain rfl : i = s.readOperation := congrArg Prod.fst (Except.ok.inj decoded)
  obtain ⟨r, hr'⟩ := exec_isNext s.readOperation s
  obtain ⟨d, hd⟩ := deviceWriteTick_isNext s
  have hr'' : deviceReadTick s = .next r := by rw [deviceReadTick_idle idle, if_pos request, hr']
  refine ⟨(decodeRead_selects hc fits).1, r, _, hr', step_of_process hc hr hd hr'', rfl, rfl, rfl, rfl, rfl, rfl, rfl,
    rfl, rfl, fun writeIdle noRequest => ?_⟩
  rw [deviceWriteTick_idle writeIdle, if_neg (by simp [noRequest])] at hd
  cases hd
  exact ⟨rfl, rfl, rfl, rfl, rfl⟩

/-- A write to a register address leaves that register merged, whichever register it is (R112, R113). -/
theorem WriteEffect.readReg_addressed {c : Cfg} {a : Nat} {data : Word} {strb : Strobe} {s d : State}
    (h : WriteEffect c a data strb s d) (reg : a < 64) :
    d.readReg (regIndex a) = merge (s.readReg (regIndex a)) data strb := by
  have isReg : region c a = .reg := region_eq_reg.mpr reg
  cases h with
  | startsCompute control | clearsIrq control => simp [regIndex_of_control control]
  | mergesReg => simp
  | writesIbuf ibuf => exact nomatch isReg.symm.trans ibuf
  | storesNothing outside => simp [isReg] at outside

/-- A read of a register address completes with that register's value (R131). -/
theorem exec_decodeRead_reg (c : Cfg) {a : Nat} (reg : a < 64) (s : State) :
    exec (decodeRead c a) s = .next (s.completeRead (s.readReg (regIndex a))) := by
  have isReg : region c a = .reg := region_eq_reg.mpr reg
  simp only [decodeRead, isReg, exec_rdReg]

/-- Settles O57: both procedures work on the state before the tick. -/
theorem sameTickReadSeesTheOldValue : Obligations.SameTickReadSeesTheOldValue := by
  intro s hc hr idle request readIdle readRequest reg readReg same
  obtain ⟨d, hd⟩ := exec_isNext s.writeOperation s
  have hd' : deviceWriteTick s = .next d := by rw [deviceWriteTick_idle idle, if_pos request, hd]
  have hr' := deviceReadTick_idle readIdle
  rw [if_pos readRequest, State.readOperation, exec_decodeRead_reg s.cfg readReg s] at hr'
  exact ⟨_, step_of_process hc hr hd' hr', congrArg s.readReg same, (writeEffect_of_exec hd).readReg_addressed reg⟩

/-! ### The channels' rules -/

/-- The rules of an address channel, case by case (R81 to R83, R101 to R103). -/
theorem AddrChannel.tick_rules (c : Cfg) (ch : AddrChannel) (valid : Bool) (raw : Nat) (dev : Bool) :
    (ch.state = .readyHigh → ch.tick c valid raw dev = { ch with ready := true, state := .awaitValid }) ∧
    (ch.state = .awaitValid → valid = true →
      ch.tick c valid raw dev =
        { state := .awaitDeviceReady, ready := false, auxValid := true, addr := xlate c raw }) ∧
    (ch.state = .awaitValid → valid = false → ch.tick c valid raw dev = ch) ∧
    (ch.state = .awaitDeviceReady → dev = true →
      ch.tick c valid raw dev = { ch with auxValid := false, state := .readyHigh }) ∧
    (ch.state = .awaitDeviceReady → dev = false → ch.tick c valid raw dev = ch) := by
  refine ⟨fun hs => ch.tick_readyHigh c valid raw dev hs, fun hs hv => ?_, fun hs hv => ?_, fun hs hv => ?_,
    fun hs hv => ?_⟩
  · rw [ch.tick_awaitValid c valid raw dev hs, if_pos hv]
  · rw [ch.tick_awaitValid c valid raw dev hs, if_neg (by simp [hv])]
  · rw [ch.tick_awaitDeviceReady c valid raw dev hs, if_pos hv]
  · rw [ch.tick_awaitDeviceReady c valid raw dev hs, if_neg (by simp [hv])]

/-- Settles O29. -/
theorem writeAddressChannelFollowsItsRules : Obligations.WriteAddressChannelFollowsItsRules := by
  intro s hc hr
  obtain ⟨t, h⟩ := step_isNext hc
  refine ⟨t, h, ?_⟩
  rw [step_aw hr h]
  exact AddrChannel.tick_rules ..

/-- Settles O31. -/
theorem readAddressChannelFollowsItsRules : Obligations.ReadAddressChannelFollowsItsRules := by
  intro s hc hr
  obtain ⟨t, h⟩ := step_isNext hc
  refine ⟨t, h, ?_⟩
  rw [step_ar hr h]
  exact AddrChannel.tick_rules ..

/-- Settles O30. -/
theorem writeDataChannelFollowsItsRules : Obligations.WriteDataChannelFollowsItsRules := by
  intro s hc hr
  obtain ⟨t, h⟩ := step_isNext hc
  refine ⟨t, h, fun hs => ?_, fun hs hv => ?_, w_waits_for_valid hr h, fun hs hv => ?_, w_waits_for_device hr h⟩ <;>
    rw [step_w hr h]
  · rw [nextW_readyHigh s _ hs]
  · rw [nextW_awaitValid s _ hs, if_pos hv]
  · rw [nextW_awaitDeviceReady s _ hs, if_pos hv]

/-- Settles O28: the one tick of `READY_HIGH` raises ready, which its flag says is 0 before. -/
theorem readyHighLastsOneTick : Obligations.ReadyHighLastsOneTick := by
  rintro s hc ⟨⟨aw, -⟩, ⟨w, -⟩, ⟨ar, -⟩, -⟩ hr
  obtain ⟨t, h⟩ := step_isNext hc
  refine ⟨t, h, fun hs => ⟨?_, ?_⟩, fun hs => ⟨?_, ?_⟩, fun hs => ⟨?_, ?_⟩⟩
  · simpa [hs] using aw
  · rw [step_aw hr h]; exact AddrChannel.tick_readyHigh _ _ _ _ _ hs
  · simpa [hs] using w
  · rw [step_w hr h, nextW_readyHigh s _ hs]
  · simpa [hs] using ar
  · rw [step_ar hr h]; exact AddrChannel.tick_readyHigh _ _ _ _ _ hs

/-- Settles O32. -/
theorem responseChannelFollowsItsRules : Obligations.ResponseChannelFollowsItsRules := by
  intro s hc hr
  obtain ⟨t, h⟩ := step_isNext hc
  refine ⟨t, h, fun hs hv => ?_, fun hs hv => ?_, b_waits_for_ready hr h, fun hs hv => ?_⟩ <;> rw [step_b hr h]
  · rw [nextB_collect s _ hs, if_neg (by simp [hv])]
    exact ⟨hs, rfl, rfl, rfl, rfl, rfl⟩
  · rw [nextB_collect s _ hs, if_pos hv]
  · rw [nextB_respond s _ hs, if_pos hv]

/-- Settles O33. -/
theorem readDataChannelFollowsItsRules : Obligations.ReadDataChannelFollowsItsRules := by
  intro s hc hr
  obtain ⟨t, h⟩ := step_isNext hc
  refine ⟨t, h, fun hs hv => ?_, r_waits_for_device hr h, fun hs hv => ?_, r_waits_for_ready hr h, fun hs hv => ?_,
    r_waits_for_release hr h⟩ <;> rw [step_r hr h]
  · rw [nextR_idle s _ hs, if_pos hv]
  · rw [nextR_validate s _ hs, if_pos hv]
  · rw [nextR_drain s _ hs, if_neg (by simp [hv])]

/-- Settles O34: with its request down an acknowledging procedure finishes. -/
theorem deviceReadiesFallAfterTheirRequests : Obligations.DeviceReadiesFallAfterTheirRequests := by
  intro s hc hr
  obtain ⟨t, h⟩ := step_isNext hc
  refine ⟨t, h, dw_waits_for_release hr h, fun hs hv => ?_, dr_waits_for_release hr h, fun hs hv => ?_⟩
  · rw [step_dw hr h (by rw [deviceWriteTick_ack hs, if_neg (by simp [hv])]), State.finishWrite_dw]
  · rw [step_dr hr h (by rw [deviceReadTick_ack hs, if_neg (by simp [hv])]), State.finishRead_dr]

/-! ### The compute step -/

/-- Settles O35: the step takes `DW`'s elements from the copy, `irq` and the completion; `DW` was not ready before it, so
the channels hold the request. -/
theorem computeStepCopiesTheBufferAndRaisesTheInterrupt :
    Obligations.ComputeStepCopiesTheBufferAndRaisesTheInterrupt := by
  intro s hc hr compute
  obtain ⟨r, hr'⟩ := deviceReadTick_isNext s
  have hd : deviceWriteTick s = .next (computeTick s) := by simp [deviceWriteTick, compute]
  have h := step_of_process hc hr hd hr'
  refine ⟨_, h, read_computeTick_obuf s, rfl, ⟨rfl, rfl⟩, fun _ => rfl, fun _ => rfl, ?_⟩
  rintro ⟨-, hs, -, -, ⟨whileCompute, -⟩, -⟩
  exact step_holds_devWvalid hs hr h (whileCompute compute) (dw_notReady hs (by simp [compute]))

/-! ### Reset, and the constant responses -/

/-- Settles O36. -/
theorem resetTickForcesTheInitialStates : Obligations.ResetTickForcesTheInitialStates := by
  intro s hc hr
  exact ⟨_, step_of_reset hc hr, by simp⟩

/-- Settles O37: after the reset tick each channel is in `READY_HIGH`, whose one tick raises ready. -/
theorem handshakeOutputsAreZeroAfterReset : Obligations.HandshakeOutputsAreZeroAfterReset := by
  intro s hc hr
  refine ⟨_, step_of_reset hc hr, rfl, rfl, rfl, rfl, rfl, fun noReset => ?_⟩
  obtain ⟨u, h⟩ := step_isNext (s := s.resetTick) hc
  refine ⟨u, h, ?_, ?_, ?_⟩
  · rw [step_aw noReset h, nextAw, AddrChannel.tick_readyHigh _ _ _ _ _ rfl]
  · rw [step_w noReset h, nextW_readyHigh _ _ rfl]
  · rw [step_ar noReset h, nextAr, AddrChannel.tick_readyHigh _ _ _ _ _ rfl]

/-- Settles O60: both responses are the constant of R38. -/
theorem responsesAreAlwaysOkay : Obligations.ResponsesAreAlwaysOkay := fun _ => ⟨rfl, rfl⟩

/-! ### What each process reads -/

/-- What `DW` owns in `s` (R28), over the rest of `u`. -/
def State.writeSideOver (s u : State) : State :=
  { u with cfg := s.cfg, dw := s.dw, regs := s.regs, ibuf := s.ibuf, obuf := s.obuf, irq := s.irq }

/-- What `DR` owns and reads in `s` (R28), over the rest of `u`. -/
def State.readSideOver (s u : State) : State :=
  { u with cfg := s.cfg, dr := s.dr, draws := s.draws, regs := s.regs, obuf := s.obuf }

/-- A write reads and assigns nothing but `DW`'s elements. -/
theorem exec_writeSideOver {i : Instr} (hi : i.isWrite = true) {s d : State} (h : exec i s = .next d) (u : State) :
    exec i (s.writeSideOver u) = .next (d.writeSideOver u) := by
  cases i with
  | wrCtrl low data strb =>
    cases go : goBit (merge (s.readReg 0) data strb) with
    | true => rw [exec_wrCtrl_of_go go] at h; cases h; exact exec_wrCtrl_of_go (s := s.writeSideOver u) go low
    | false =>
      rw [exec_wrCtrl_of_not_go go] at h; cases h; exact exec_wrCtrl_of_not_go (s := s.writeSideOver u) go low
  | wrReg | wrIbuf | wrObuf | wrUnmapped => cases h; rfl
  | rdReg | rdObuf | rdIbuf | rdUnmapped => exact nomatch hi

/-- A read reads nothing but registers, OutputBuffer and the counter, and assigns `DR`'s elements and the counter. -/
theorem exec_readSideOver {i : Instr} (hi : i.isWrite = false) {s d : State} (h : exec i s = .next d) (u : State) :
    exec i (s.readSideOver u) = .next (d.readSideOver u) := by
  cases i with
  | rdReg | rdObuf | rdIbuf | rdUnmapped => cases h; rfl
  | wrCtrl | wrReg | wrIbuf | wrObuf | wrUnmapped => exact nomatch hi

/-- `DW`'s tick depends on its own elements, the request and the operation asked for (R28). -/
theorem deviceWriteTick_writeSideOver {s d u : State} (h : deviceWriteTick s = .next d)
    (request : u.devWvalid = s.devWvalid) (operation : (s.writeSideOver u).writeOperation = s.writeOperation) :
    deviceWriteTick (s.writeSideOver u) = .next (d.writeSideOver u) := by
  have same : (s.writeSideOver u).devWvalid = s.devWvalid := request
  have state : (s.writeSideOver u).dw = s.dw := rfl
  unfold deviceWriteTick at h ⊢
  rw [same, state, operation]
  cases hs : s.dw.state <;> cases hv : s.devWvalid <;> simp only [hs, hv] at h ⊢
  case idle.true => exact exec_writeSideOver (decodeWrite_isWrite ..) h u
  all_goals cases h; rfl

/-- `DR`'s tick depends on its own elements, what it reads, the request and the operation asked for (R28). -/
theorem deviceReadTick_readSideOver {s d u : State} (h : deviceReadTick s = .next d)
    (request : u.ar.auxValid = s.ar.auxValid) (operation : (s.readSideOver u).readOperation = s.readOperation) :
    deviceReadTick (s.readSideOver u) = .next (d.readSideOver u) := by
  have same : (s.readSideOver u).ar.auxValid = s.ar.auxValid := request
  have state : (s.readSideOver u).dr = s.dr := rfl
  unfold deviceReadTick at h ⊢
  rw [same, state, operation]
  cases hs : s.dr.state <;> cases hv : s.ar.auxValid <;> simp only [hs, hv] at h ⊢
  case idle.true => exact exec_readSideOver (decodeRead_isRead ..) h u
  all_goals cases h; rfl

/-- Settles O38: each channel's rule names what it reads; a device procedure's tick is the same over any rest of the
state. -/
theorem eachProcessReadsOnlyWhatIsListed : Obligations.EachProcessReadsOnlyWhatIsListed := by
  intro s t s' t' cfg hrs hrt hs ht
  rw [step_aw hrs hs, step_w hrs hs, step_b hrs hs, step_ar hrs hs, step_r hrs hs, step_aw hrt ht, step_w hrt ht,
    step_b hrt ht, step_ar hrt ht, step_r hrt ht]
  refine ⟨fun own valid addr ready => ?_, fun own valid data strb ready => ?_,
    fun own awvalid awready wvalid wready bready => ?_, fun own valid addr ready => ?_,
    fun own ready data rready => ?_, fun dw regs ibuf obuf irq awAux wAux addr data strb => ?_,
    fun dr draws aux addr regs obuf => ?_⟩
  · rw [nextAw, nextAw, cfg, own, valid, addr, ready]
  · simp only [nextW, own, valid, data, strb, ready]
  · simp only [nextB, own, awvalid, awready, wvalid, wready, bready]
  · rw [nextAr, nextAr, cfg, own, valid, addr, ready]
  · simp only [nextR, own, ready, data, rready]
  · have self : s.writeSideOver t = t := by simp only [State.writeSideOver, cfg, dw, regs, ibuf, obuf, irq]
    obtain ⟨d, -, hd, -, rfl⟩ := step_process hrs hs
    obtain ⟨e, -, he, -, rfl⟩ := step_process hrt ht
    have tick := deviceWriteTick_writeSideOver (u := t) hd (by simp only [State.devWvalid, awAux, wAux])
      (by simp only [State.writeOperation, State.writeSideOver, addr, data, strb])
    rw [self, he] at tick
    cases tick
    exact ⟨rfl, rfl, rfl, rfl, rfl⟩
  · have self : s.readSideOver t = t := by simp only [State.readSideOver, cfg, dr, draws, regs, obuf]
    obtain ⟨-, d, -, hd, rfl⟩ := step_process hrs hs
    obtain ⟨-, e, -, he, rfl⟩ := step_process hrt ht
    have tick := deviceReadTick_readSideOver (u := t) hd aux.symm
      (by simp only [State.readOperation, State.readSideOver, addr])
    rw [self, he] at tick
    cases tick
    rfl

end Sys2Proof.Machine

/-! PROOFS. Addresses: the match and mask table of CFG_REF (30_encoding.md R63, R64), the ignored low bits (20_memory.md
R50), the translation and its window (R42, R43), and a table word placed after reset. -/

namespace Sys2Proof.Machine

open Sys2Proof Config

/-! ### The match and mask table -/

/-- A mask that drops the low `k` bits compares the rest. -/
theorem masked_eq (d m : BitVec 33) (k : Nat) :
    (d &&& (BitVec.allOnes 33 <<< k) == m) = decide (d.toNat / 2 ^ k * 2 ^ k = m.toNat) := by
  have cleared : d &&& (BitVec.allOnes 33 <<< k) = d >>> k <<< k := BitVec.eq_of_getLsbD_eq fun i hi => by
    simp only [BitVec.getLsbD_and, BitVec.getLsbD_shiftLeft, BitVec.getLsbD_allOnes, BitVec.getLsbD_ushiftRight]
    by_cases low : i < k
    · simp [low]
    · simp [low, hi, show k + (i - k) = i by omega, show i - k < 33 by omega]
  have bound : d.toNat / 2 ^ k * 2 ^ k < 2 ^ 33 := Nat.lt_of_le_of_lt (Nat.div_mul_le_self ..) d.isLt
  have value : (d >>> k <<< k).toNat = d.toNat / 2 ^ k * 2 ^ k := by
    rw [BitVec.toNat_shiftLeft, BitVec.toNat_ushiftRight, Nat.shiftRight_eq_div_pow, Nat.shiftLeft_eq,
      Nat.mod_eq_of_lt bound]
  rw [cleared, Bool.eq_iff_iff, beq_iff_eq, decide_eq_true_iff, ← value]
  exact ⟨congrArg _, BitVec.eq_of_toNat_eq⟩

/-- A search over a list is a test of its head, then of the rest. -/
theorem find?_cons_map {α β : Type} (p : α → Bool) (f : α → β) (a : α) (l : List α) :
    ((a :: l).find? p).map f = if p a = true then some (f a) else (l.find? p).map f := by
  rw [List.find?_cons]
  cases p a <;> rfl

/-- The table's first match, row by row, on the number the decode word is. -/
theorem firstMatch_eq (d : BitVec 33) :
    firstMatch d =
      if d.toNat / 4 * 4 = 0x100000000 then some "WR_CTRL"
      else if d.toNat / 64 * 64 = 0x100000000 then some "WR_REG"
      else if d.toNat / 64 * 64 = 0x100000100 then some "WR_IBUF"
      else if d.toNat / 32 * 32 = 0x100000200 then some "WR_OBUF"
      else if d.toNat / 0x100000000 * 0x100000000 = 0x100000000 then some "WR_UNMAPPED"
      else if d.toNat / 64 * 64 = 0 then some "RD_REG"
      else if d.toNat / 32 * 32 = 0x200 then some "RD_OBUF"
      else if d.toNat / 64 * 64 = 0x100 then some "RD_IBUF"
      else if d.toNat / 0x100000000 * 0x100000000 = 0 then some "RD_UNMAPPED"
      else none := by
  have two (m : BitVec 33) : (d &&& 0x1FFFFFFFC#33 == m) = decide (d.toNat / 4 * 4 = m.toNat) := masked_eq d m 2
  have five (m : BitVec 33) : (d &&& 0x1FFFFFFE0#33 == m) = decide (d.toNat / 32 * 32 = m.toNat) := masked_eq d m 5
  have six (m : BitVec 33) : (d &&& 0x1FFFFFFC0#33 == m) = decide (d.toNat / 64 * 64 = m.toNat) := masked_eq d m 6
  have dir (m : BitVec 33) :
      (d &&& 0x100000000#33 == m) = decide (d.toNat / 0x100000000 * 0x100000000 = m.toNat) := masked_eq d m 32
  simp only [firstMatch, opcodeTable, find?_cons_map, two, five, six, dir, decide_eq_true_eq]
  rfl

/-- The row of a write word is the operation's that the decoder selects (R63, R64). -/
theorem firstMatch_write {d : BitVec 33} {a : Nat} (h : d.toNat = 0x100000000 + a) (data : Word) (strb : Strobe) :
    firstMatch d = some (decodeWrite Cfg.ref a data strb).mnemonic := by
  have hc : Cfg.ref.wf = true := by decide
  rw [firstMatch_eq, h]
  obtain ⟨hreg, hidx, e⟩ | ⟨hreg, hidx, e⟩ | ⟨hreg, e⟩ | ⟨hreg, e⟩ | ⟨hreg, e⟩ :=
    decodeWrite_cases Cfg.ref a data strb <;> rw [e]
  · have control : a < 4 := (regIndex_eq_zero (region_eq_reg.mp hreg)).mp hidx
    rw [if_pos (by omega)]
    rfl
  · have reg : a < 64 := region_eq_reg.mp hreg
    have plain : ¬ a < 4 := fun control => hidx ((regIndex_eq_zero reg).mpr control)
    rw [if_neg (by omega), if_pos (by omega)]
    rfl
  · have ibuf : 0x100 ≤ a ∧ a < 0x140 := (region_eq_ibuf hc).mp hreg
    rw [if_neg (by omega), if_neg (by omega), if_pos (by omega)]
    rfl
  · have obuf : 0x200 ≤ a ∧ a < 0x220 := (region_eq_obuf hc).mp hreg
    rw [if_neg (by omega), if_neg (by omega), if_neg (by omega), if_pos (by omega)]
    rfl
  · have unmapped : ¬ a < 64 ∧ ¬ (0x100 ≤ a ∧ a < 0x140) ∧ ¬ (0x200 ≤ a ∧ a < 0x220) := region_eq_unmapped.mp hreg
    rw [if_neg (by omega), if_neg (by omega), if_neg (by omega), if_neg (by omega), if_pos (by omega)]
    rfl

/-- The row of a read word is the operation's that the decoder selects (R63, R64). -/
theorem firstMatch_read {d : BitVec 33} {a : Nat} (h : d.toNat = a) (ha : a < 0x100000000) :
    firstMatch d = some (decodeRead Cfg.ref a).mnemonic := by
  have hc : Cfg.ref.wf = true := by decide
  rw [firstMatch_eq, h, if_neg (by omega), if_neg (by omega), if_neg (by omega), if_neg (by omega), if_neg (by omega)]
  obtain ⟨hreg, e⟩ | ⟨hreg, e⟩ | ⟨hreg, e⟩ | ⟨hreg, e⟩ := decodeRead_cases Cfg.ref a <;> rw [e]
  · have reg : a < 64 := region_eq_reg.mp hreg
    rw [if_pos (by omega)]
    rfl
  · have obuf : 0x200 ≤ a ∧ a < 0x220 := (region_eq_obuf hc).mp hreg
    rw [if_neg (by omega), if_pos (by omega)]
    rfl
  · have ibuf : 0x100 ≤ a ∧ a < 0x140 := (region_eq_ibuf hc).mp hreg
    rw [if_neg (by omega), if_neg (by omega), if_pos (by omega)]
    rfl
  · have unmapped : ¬ a < 64 ∧ ¬ (0x100 ≤ a ∧ a < 0x140) ∧ ¬ (0x200 ≤ a ∧ a < 0x220) := region_eq_unmapped.mp hreg
    rw [if_neg (by omega), if_neg (by omega), if_neg (by omega), if_pos (by omega)]
    rfl

/-- Settles O4: bit 32 is the direction, the rest the address. -/
theorem firstMatchingRowIsTheDecodedOperation : Obligations.FirstMatchingRowIsTheDecodedOperation := by
  intro d data strb
  have hd := d.isLt
  have address : (d.setWidth 32).toNat = d.toNat % 0x100000000 := BitVec.toNat_setWidth ..
  have direction : d.getLsbD 32 = decide (0x100000000 ≤ d.toNat) := by
    rw [BitVec.getLsbD, Nat.testBit_eq_decide_div_mod_eq]
    simp only [decide_eq_decide]
    omega
  rw [address, direction, decide_eq_true_eq, decide_eq_false_iff_not]
  exact ⟨fun write => firstMatch_write (by omega) data strb,
    fun read => firstMatch_read (by omega) (by omega)⟩

/-! ### The ignored low bits -/

/-- Regions are made of whole words, so an address and its word base lie in the same one (R50). -/
theorem region_wordBase {c : Cfg} (hc : c.wf = true) (a : Nat) : region c (wordBase a) = region c a := by
  obtain ⟨hro, hrs, hwo, hws, -, -⟩ := Cfg.wf_align hc
  have reg : wordBase a < 64 ↔ a < 64 := by simp only [wordBase, bpw]; omega
  have ibuf : (c.rfileOffset ≤ wordBase a ∧ wordBase a < c.rfileOffset + c.rfileSize) ↔
      (c.rfileOffset ≤ a ∧ a < c.rfileOffset + c.rfileSize) := by simp only [wordBase, bpw]; omega
  have obuf : (c.wfileOffset ≤ wordBase a ∧ wordBase a < c.wfileOffset + c.wfileSize) ↔
      (c.wfileOffset ≤ a ∧ a < c.wfileOffset + c.wfileSize) := by simp only [wordBase, bpw]; omega
  simp only [region, regSpan, reg, ibuf, obuf]

theorem regIndex_wordBase (a : Nat) : regIndex (wordBase a) = regIndex a := by
  have same : (a - a % 4) / 2 ^ 2 = a / 2 ^ 2 := by omega
  simp only [regIndex, wordBase, bpw, lb, Nat.shiftRight_eq_div_pow, same]

theorem wordIndex_wordBase (offset a : Nat) : wordIndex offset (wordBase a) = wordIndex offset a := by
  have same : wordBase (wordBase a) = wordBase a := by simp only [wordBase, bpw]; omega
  simp only [wordIndex, same]

/-- Settles O6: the operations at the address and at its word base differ in the ignored operand only. -/
theorem lowAddressBitsSelectNothing : Obligations.LowAddressBitsSelectNothing := by
  intro c a data strb s hc
  simp only [decodeWrite, decodeRead, region_wordBase hc, regIndex_wordBase, wordIndex_wordBase]
  cases region c a with
  | reg => by_cases control : regIndex a = 0 <;> simp only [control, if_true, if_false] <;> exact ⟨rfl, rfl⟩
  | ibuf | obuf | unmapped => exact ⟨rfl, rfl⟩

/-! ### The translation and its window -/

section
variable {c : Cfg} (hc : c.wf = true) {raw : Nat} (hraw : raw < 2 ^ c.addrWidth)
include hc hraw

/-- Under the XOR policy the window is one block of `SIZE` addresses: `xlate` keeps the place in the block and is below
`SIZE` in `BASE`'s own block only (R42). -/
theorem xlate_xor (policy : c.size ≤ c.base) :
    xlate c raw % c.size = raw % c.size ∧ (xlate c raw / c.size = 0 ↔ raw / c.size = c.base / c.size) := by
  obtain ⟨-, -, hbase⟩ := Cfg.wf_address hc
  obtain ⟨hsize, haligned⟩ := Cfg.wf_policy hc policy
  have value : xlate c raw = raw ^^^ c.base := by
    rw [xlate, if_pos policy, portAddr, Nat.mod_eq_of_lt hraw, Nat.mod_eq_of_lt (Nat.xor_lt_two_pow hraw hbase)]
  generalize Nat.log2 c.size = k at hsize
  rw [hsize] at haligned
  rw [value, hsize]
  refine ⟨?_, ?_⟩
  · rw [Nat.xor_mod_two_pow, haligned, Nat.xor_zero]
  · rw [Nat.xor_div_two_pow, Nat.xor_eq_zero_iff]

/-- Under the subtraction policy the translation is a subtraction modulo `2^N` (R42). -/
theorem xlate_sub (policy : ¬ c.size ≤ c.base) :
    xlate c raw = if c.base ≤ raw then raw - c.base else raw + (2 ^ c.addrWidth - c.base) := by
  obtain ⟨-, -, hbase⟩ := Cfg.wf_address hc
  rw [xlate, if_neg policy, portAddr, Nat.mod_eq_of_lt hraw]
  split
  next above =>
    rw [show raw + (2 ^ c.addrWidth - c.base) = raw - c.base + 2 ^ c.addrWidth by omega, Nat.add_mod_right,
      Nat.mod_eq_of_lt (by omega)]
  next below => exact Nat.mod_eq_of_lt (by omega)

end

/-- With `BASE` a multiple of `SIZE`, an address is in the window when it is in `BASE`'s block. -/
theorem window_iff_block {base size raw : Nat} (aligned : base % size = 0) (positive : 0 < size) :
    (base ≤ raw ∧ raw < base + size) ↔ raw / size = base / size := by
  obtain ⟨q, rfl⟩ := Nat.dvd_of_mod_eq_zero aligned
  rw [Nat.mul_div_cancel_left q positive, Nat.div_eq_iff positive]
  rw [Nat.mul_comm]
  omega

/-- Settles O7: under the XOR policy the window is `BASE`'s block, in which the translation is the place in the block. -/
theorem translationSubtractsBaseOnTheWindow : Obligations.TranslationSubtractsBaseOnTheWindow := by
  intro c raw hc above below fits
  by_cases policy : c.size ≤ c.base
  · obtain ⟨-, aligned⟩ := Cfg.wf_policy hc policy
    have positive : 0 < c.size := by have := Cfg.wf_inside hc; omega
    obtain ⟨place, block⟩ := xlate_xor hc fits policy
    have sameBlock := (window_iff_block aligned positive).mp ⟨above, below⟩
    have offset : raw % c.size = raw - c.base := by
      have hraw := Nat.div_add_mod raw c.size
      have hbase := Nat.div_add_mod c.base c.size
      rw [sameBlock] at hraw
      omega
    rw [← offset, ← place, Nat.mod_eq_of_lt]
    exact (Nat.div_eq_zero_iff_lt positive).mp (block.mpr sameBlock)
  · rw [xlate_sub hc fits policy, if_pos above]

/-- Settles O8: under the XOR policy an address outside the window is in another block, under the subtraction policy it is
too far above `BASE` or wraps to the top; no region reaches beyond `SIZE`. -/
theorem outOfWindowAddressesAreUnmapped : Obligations.OutOfWindowAddressesAreUnmapped := by
  intro c raw hc noWrap fits outside
  obtain ⟨hspan, hread, hwrite⟩ := Cfg.wf_inside hc
  have beyond : c.size ≤ xlate c raw := by
    by_cases policy : c.size ≤ c.base
    · obtain ⟨-, aligned⟩ := Cfg.wf_policy hc policy
      obtain ⟨-, block⟩ := xlate_xor hc fits policy
      rw [← window_iff_block aligned (by omega), Nat.div_eq_zero_iff] at block
      omega
    · rw [xlate_sub hc fits policy]
      split <;> omega
  exact ⟨beyond, region_eq_unmapped.mpr (by omega)⟩

/-- Settles O9: the configuration of the assumption log, `N` = 12 and `BASE + SIZE` = 0x1800, with the InputBuffer at
0x900: bus address 0x100 is below the window and wraps to 0x900. -/
theorem aWindowPastTheTopAliasesAnOutsideAddress : Obligations.AWindowPastTheTopAliasesAnOutsideAddress :=
  ⟨{ Cfg.ref with addrWidth := 12, base := 0x800, size := 0x1000, rfileOffset := 0x900 }, 0x100, by decide⟩

/-! ### A word placed after reset -/

/-- Settles O3: the table's bytes are evaluated and decoded. -/
theorem writtenOutWordsDecodeToTheirOperations : Obligations.WrittenOutWordsDecodeToTheirOperations :=
  ⟨by decide, by decide, by decide, by decide, by decide, by decide, by decide, by decide, by decide⟩

/-- A table word that decodes is a transaction's, and the operation is the one it selects. -/
theorem parse_of_decodeTableWord {nbits w : Nat} {i : Instr} (h : decodeTableWord nbits w = some i) :
    ∃ t rest, parse Cfg.ref (tableWordBytes Cfg.ref nbits w) = .ok (t, rest) ∧ i = decodeTransaction Cfg.ref t := by
  unfold decodeTableWord decode at h
  cases hparse : parse Cfg.ref (tableWordBytes Cfg.ref nbits w) with
  | error e => simp [hparse] at h
  | ok found =>
    simp only [hparse, Option.some.injEq] at h
    exact ⟨found.1, found.2, rfl, h.symm⟩

/-- A write does not touch the read procedure (R28). -/
theorem WriteEffect.readProc_eq {c : Cfg} {a : Nat} {data : Word} {strb : Strobe} {s d : State}
    (h : WriteEffect c a data strb s d) : d.dr = s.dr ∧ d.draws = s.draws := by
  cases h <;> exact ⟨rfl, rfl⟩

/-- Settles O26: the placed transaction is the request of its procedure, and the other procedure has none. -/
theorem placedWordIsPerformedByTheNextStep : Obligations.PlacedWordIsPerformedByTheNextStep := by
  intro w i h
  obtain ⟨t, rest, hparse, rfl⟩ := parse_of_decodeTableWord h
  have placed : State.reset.withFetchWord 40 w = State.reset.present t := by
    have hparse' : parse State.reset.cfg (tableWordBytes State.reset.cfg 40 w) = .ok (t, rest) := hparse
    simp only [State.withFetchWord, hparse']
  have hc : (State.reset.present t).cfg.wf = true := by
    have wf : Cfg.ref.wf = true := by decide
    cases t <;> exact wf
  have hr : (State.reset.present t).input.reset = false := by cases t <;> rfl
  rw [placed]
  obtain ⟨d, hd⟩ := exec_isNext (decodeTransaction Cfg.ref t) (State.reset.present t)
  cases t with
  | write a data strb =>
    obtain ⟨dr, draws⟩ := (writeEffect_of_exec hd).readProc_eq
    exact ⟨d, _, hd, step_of_process hc hr hd rfl, rfl, rfl, rfl, rfl, rfl, dr.symm, draws.symm⟩
  | read a =>
    have frame : d.regs = State.reset.regs ∧ d.ibuf = State.reset.ibuf ∧ d.obuf = State.reset.obuf ∧
        d.irq = State.reset.irq ∧ d.dw = State.reset.dw := by
      obtain ⟨v, e⟩ | e := exec_read_cases (decodeRead_isRead Cfg.ref a) (State.reset.present (.read a)) <;>
        cases e.symm.trans hd <;> exact ⟨rfl, rfl, rfl, rfl, rfl⟩
    obtain ⟨regs, ibuf, obuf, irq, dw⟩ := frame
    exact ⟨d, _, hd, step_of_process hc hr rfl hd, regs.symm, ibuf.symm, obuf.symm, irq.symm, dw.symm, rfl, rfl⟩

end Sys2Proof.Machine

/-! PROOFS. Several ticks: a write and a read, phase by phase, and what a trace of them gives (42_device_write.md section 5,
43_device_read.md section 4, 70_reset_and_hazards.md R160, R178). -/

namespace Sys2Proof.Machine

open Sys2Proof Config

/-! ### Storage that a tick leaves alone -/

/-- Registers, buffers and `irq` are the same in both states. -/
abbrev State.SameStorage (s t : State) : Prop :=
  t.regs = s.regs ∧ t.ibuf = s.ibuf ∧ t.obuf = s.obuf ∧ t.irq = s.irq

/-- Outside reset, a tick in which `DW` neither performs nor computes leaves the storage alone. -/
theorem step_sameStorage {s t : State} (hr : s.input.reset = false) (h : step s = .next t)
    (noRequest : s.dw.state = .idle → s.devWvalid = false) (noCompute : s.dw.state ≠ .compute) : s.SameStorage t := by
  obtain ⟨d, r, hd, -, rfl⟩ := step_ticks hr h
  cases hd with
  | performs idle request => exact nomatch (noRequest idle).symm.trans request
  | computes compute => exact absurd compute noCompute
  | rests | holds | releases => exact ⟨rfl, rfl, rfl, rfl⟩

/-- The InputBuffer and the registers change only when `DW` performs. -/
theorem step_keeps_regs_ibuf {s t : State} (hr : s.input.reset = false) (h : step s = .next t)
    (busy : s.dw.state ≠ .idle) : t.regs = s.regs ∧ t.ibuf = s.ibuf := by
  obtain ⟨d, r, hd, -, rfl⟩ := step_ticks hr h
  cases hd with
  | performs idle => exact absurd idle busy
  | computes | rests | holds | releases => exact ⟨rfl, rfl⟩

/-! ### The phases of a write -/

/-- Both write channels await their valids, `DW` rests, and `B` has observed no valid. -/
structure WriteReady (s : State) : Prop where
  aw : s.aw.state = .awaitValid
  awReady : s.aw.ready = true
  awAux : s.aw.auxValid = false
  w : s.w.state = .awaitValid
  wReady : s.w.ready = true
  dw : s.dw = { state := .idle, ready := false }
  collect : s.b.state = .collect
  sAwv : s.b.sAwv = false
  sWv : s.b.sWv = false

/-- Both write channels hold this captured write, `DW` has not performed it, and `B` has observed both handshakes. -/
structure WriteCaptured (a : Nat) (data : Word) (strb : Strobe) (s : State) : Prop where
  aw : s.aw = { state := .awaitDeviceReady, ready := false, auxValid := true, addr := a }
  w : s.w = { state := .awaitDeviceReady, ready := false, auxValid := true, data := data, strb := strb }
  dw : s.dw = { state := .idle, ready := false }
  collect : s.b.state = .collect
  observed : s.b.allObserved = true

/-- The write is performed: `DW` acknowledges and `B` responds. -/
structure WriteAnswered (s : State) : Prop where
  aw : s.aw.state = .awaitDeviceReady
  w : s.w.state = .awaitDeviceReady
  dw : s.dw = { state := .ack, ready := true }
  respond : s.b.state = .respond

/-- No response is held and both channels have released the request: so after an accepted response, when `DW` has yet to
see it, and after a reset tick, when `DW` is idle. -/
structure WriteReleased (s : State) : Prop where
  aw : s.aw.state = .readyHigh
  awAux : s.aw.auxValid = false
  w : s.w.state = .readyHigh
  dw : s.dw = { state := .ack, ready := true } ∨ s.dw = { state := .idle, ready := false }
  b : s.b = { state := .collect, valid := false, sAwv := false, sAwr := false, sWv := false, sWr := false }

section
variable {s t : State} (hr : s.input.reset = false) (h : step s = .next t)
include hr h

/-- Address and data presented together are captured, and all four flags are then observed (R82, R85, R90). -/
theorem WriteReady.captures (hs : WriteReady s) (awvalid : s.input.awvalid = true) (wvalid : s.input.wvalid = true) :
    WriteCaptured (xlate s.cfg s.input.awaddr) s.input.wdata s.input.wstrb t ∧ s.SameStorage t := by
  have noRequest : s.devWvalid = false := by rw [State.devWvalid, hs.awAux]; rfl
  have unobserved : s.b.allObserved = false := by rw [RespChannel.allObserved, hs.sAwv]; rfl
  have b := step_b hr h
  rw [nextB_collect s _ hs.collect, if_neg (by simp [unobserved])] at b
  refine ⟨⟨?_, ?_, ?_, ?_, ?_⟩, step_sameStorage hr h (fun _ => noRequest) (by simp [hs.dw])⟩
  · rw [step_aw hr h, nextAw, AddrChannel.tick_awaitValid _ _ _ _ _ hs.aw, if_pos awvalid]
  · rw [step_w hr h, nextW_awaitValid s _ hs.w, if_pos wvalid]
  · rw [dw_waits_for_request hr h (by simp [hs.dw]) noRequest, hs.dw]
  · rw [b, hs.collect]
  · simp [b, RespChannel.allObserved, sticky, awvalid, wvalid, hs.awReady, hs.wReady]

/-- A captured write is performed: the storage is its effect's, and the response rises (R91, R110). -/
theorem WriteCaptured.performs {a : Nat} {data : Word} {strb : Strobe} (hs : WriteCaptured a data strb s) :
    ∃ d, WriteEffect s.cfg a data strb s d ∧ t.dw = d.dw ∧ d.SameStorage t ∧ t.aw.state = .awaitDeviceReady ∧
      t.w.state = .awaitDeviceReady ∧ t.b.state = .respond := by
  have request : s.devWvalid = true := by rw [State.devWvalid, hs.aw, hs.w]; rfl
  have aw : t.aw.state = .awaitDeviceReady := by rw [step_aw_state hr h, hs.aw, hs.dw]; rfl
  have w : t.w.state = .awaitDeviceReady := by rw [step_w_state hr h, hs.w, hs.dw]; rfl
  have b : t.b.state = .respond := by rw [step_b hr h, nextB_collect s _ hs.collect, if_pos hs.observed]
  obtain ⟨d, r, hd, -, rfl⟩ := step_ticks hr h
  cases hd with
  | performs idle request effect =>
    rw [hs.aw, hs.w] at effect
    exact ⟨d, effect, rfl, ⟨rfl, rfl, rfl, rfl⟩, aw, w, b⟩
  | rests idle noRequest => exact nomatch noRequest.symm.trans request
  | computes busy | holds busy | releases busy => simp [hs.dw] at busy

/-- The accepted response empties the flags while both channels release the request (R83, R86, R92). -/
theorem WriteAnswered.accepts (hs : WriteAnswered s) (hc : s.Coherent) (bready : s.input.bready = true) :
    WriteReleased t ∧ s.SameStorage t := by
  have request : s.devWvalid = true := (devWvalid_iff hc).mpr ⟨hs.aw, hs.w⟩
  obtain ⟨aw, w⟩ := step_releases_write hc hr h request (by rw [hs.dw])
  refine ⟨⟨aw, ?_, w, ?_, ?_⟩, step_sameStorage hr h (by simp [hs.dw]) (by simp [hs.dw])⟩
  · simpa [aw] using (step_coherent hc h).1.2
  · rw [dw_waits_for_release hr h (by rw [hs.dw]) request]
    exact .inl hs.dw
  · rw [step_b hr h, nextB_respond s _ hs.respond, if_pos bready]

/-- `DW` sees the request down and the channels raise their readies (R81, R84, R119). -/
theorem WriteReleased.settles (hs : WriteReleased s) (awvalid : s.input.awvalid = false)
    (wvalid : s.input.wvalid = false) : WriteReady t ∧ s.SameStorage t := by
  have noRequest : s.devWvalid = false := by rw [State.devWvalid, hs.awAux]; rfl
  have aw := step_aw hr h
  have w := step_w hr h
  have b := step_b hr h
  rw [nextAw, AddrChannel.tick_readyHigh _ _ _ _ _ hs.aw] at aw
  rw [nextW_readyHigh s _ hs.w] at w
  rw [nextB_collect s _ (by rw [hs.b]), if_neg (by rw [hs.b]; exact nofun)] at b
  refine ⟨⟨by rw [aw], by rw [aw], by rw [aw]; exact hs.awAux, by rw [w], by rw [w], ?_, by rw [b, hs.b], ?_, ?_⟩,
    step_sameStorage hr h (fun _ => noRequest) (by obtain dw | dw := hs.dw <;> simp [dw])⟩
  · obtain ack | idle := hs.dw
    · rw [step_dw hr h (by rw [deviceWriteTick_ack (by rw [ack]), if_neg (by simp [noRequest])]),
        State.finishWrite_dw]
    · rw [dw_waits_for_request hr h (by rw [idle]) noRequest, idle]
  · rw [b, hs.b, awvalid]; rfl
  · rw [b, hs.b, wvalid]; rfl

end

/-! ### The phases of a read -/

/-- The read channel awaits its valid, and `DR` and `R` rest. -/
structure ReadReady (s : State) : Prop where
  ar : s.ar.state = .awaitValid
  arAux : s.ar.auxValid = false
  drIdle : s.dr.state = .idle
  drReady : s.dr.ready = false
  r : s.r.state = .idle

/-- The read channel holds this captured address, and `DR` and `R` rest. -/
structure ReadCaptured (a : Nat) (s : State) : Prop where
  ar : s.ar = { state := .awaitDeviceReady, ready := false, auxValid := true, addr := a }
  drIdle : s.dr.state = .idle
  drReady : s.dr.ready = false
  r : s.r.state = .idle

section
variable {s t : State} (hr : s.input.reset = false) (h : step s = .next t)
include hr h

theorem ReadReady.rests (hs : ReadReady s) (arvalid : s.input.arvalid = false) : ReadReady t := by
  have ar := ar_waits_for_valid hr h hs.ar arvalid
  have dr := dr_waits_for_request hr h hs.drIdle hs.arAux
  have r := r_waits_for_device hr h hs.r hs.drReady
  exact ⟨by rw [ar, hs.ar], by rw [ar, hs.arAux], by rw [dr, hs.drIdle], by rw [dr, hs.drReady], by rw [r, hs.r]⟩

/-- A presented read address is captured (R102). -/
theorem ReadReady.captures (hs : ReadReady s) (arvalid : s.input.arvalid = true) :
    ReadCaptured (xlate s.cfg s.input.araddr) t := by
  have dr := dr_waits_for_request hr h hs.drIdle hs.arAux
  have r := r_waits_for_device hr h hs.r hs.drReady
  refine ⟨?_, by rw [dr, hs.drIdle], by rw [dr, hs.drReady], by rw [r, hs.r]⟩
  rw [step_ar hr h, nextAr, AddrChannel.tick_awaitValid _ _ _ _ _ hs.ar, if_pos arvalid]

/-- A captured read is performed in one tick and its result presented in the next (R105, R130). -/
theorem ReadCaptured.presents {a : Nat} {v : Word} {d u : State} (hs : ReadCaptured a s)
    (hd : exec (decodeRead s.cfg a) s = .next d) (result : d.dr = { state := .ack, ready := true, rdata := v })
    (hr' : t.input.reset = false) (h' : step t = .next u) : u.r = { state := .validate, valid := true, data := v } := by
  have operation : s.readOperation = decodeRead s.cfg a := by rw [State.readOperation, hs.ar]
  have tick : deviceReadTick s = .next d := by
    rw [deviceReadTick_idle hs.drIdle, if_pos (by rw [hs.ar]), operation, hd]
  have dr := step_dr hr h tick
  have r := r_waits_for_device hr h hs.r hs.drReady
  rw [step_r hr' h', nextR_idle t _ (by rw [r, hs.r]), if_pos (by rw [dr, result]), dr, result]

end

/-! ### Quiescence -/

/-- A quiescent bridge is ready for a write and for a read (R178). -/
theorem ready_of_quiescent {s : State} (hs : s.Quiescent) : s.Coherent ∧ WriteReady s ∧ ReadReady s := by
  obtain ⟨aw, w, ar, awReady, wReady, arReady, awAux, wAux, arAux, collect, bvalid, -, -, sAwv, sWv, r, rvalid, dwIdle,
    drIdle, dwReady, drReady⟩ := hs
  have dw : s.dw = { state := .idle, ready := false } := by rw [← dwIdle, ← dwReady]
  refine ⟨?_, ⟨aw, awReady, awAux, w, wReady, dw, collect, sAwv, sWv⟩, ⟨ar, arAux, drIdle, drReady, r⟩⟩
  simp [State.Coherent, AddrChannel.Coherent, DataChannel.Coherent, *]

/-- A silent tick of a bridge that is ready for a write and for a read makes it quiescent: the two readies are observed
(R90, R178). -/
theorem quiescent_of_ready {s t : State} (hs : s.Coherent) (hw : WriteReady s) (hread : ReadReady s)
    (silent : s.input.Silent) (h : step s = .next t) : t.Quiescent ∧ s.SameStorage t := by
  obtain ⟨hr, awvalid, wvalid, arvalid⟩ := silent
  have noRequest : s.devWvalid = false := by rw [State.devWvalid, hw.awAux]; rfl
  have unobserved : s.b.allObserved = false := by rw [RespChannel.allObserved, hw.sAwv]; rfl
  have aw := aw_waits_for_valid hr h hw.aw awvalid
  have w := w_waits_for_valid hr h hw.w wvalid
  have dw := dw_waits_for_request hr h (by rw [hw.dw]) noRequest
  have b := step_b hr h
  rw [nextB_collect s _ hw.collect, if_neg (by simp [unobserved])] at b
  have ht := step_coherent hs h
  obtain ⟨ar, arAux, drIdle, drReady, r⟩ := hread.rests hr h arvalid
  have rvalid : t.r.valid = false := by simpa [r] using ht.2.2.2.2.1
  have bvalid : s.b.valid = false := by simpa [hw.collect] using hs.2.2.2.1
  have wAux : s.w.auxValid = false := by simpa [hw.w] using hs.2.1.2
  refine ⟨?_, step_sameStorage hr h (fun _ => noRequest) (by simp [hw.dw])⟩
  simp [State.Quiescent, aw, w, dw, b, ar, arAux, drIdle, drReady, r, rvalid, bvalid, wAux, hw.aw, hw.awReady, hw.awAux,
    hw.w, hw.wReady, hw.dw, hw.collect, hw.sAwv, hw.sWv, sticky, awvalid, wvalid, ht.2.2.1.1.mpr ar]

end Sys2Proof.Machine

/-! PROOFS. Traces from a quiescent bridge and from a reset tick (42_device_write.md R121 to R123, 43_device_read.md R136,
70_reset_and_hazards.md R160, R161, R178). -/

namespace Sys2Proof.Machine

open Sys2Proof Config

/-! ### A compute step after a trigger -/

/-- Settles O54: the perform tick merges and leaves `DW` in its compute step, whose tick copies and raises `irq`. -/
theorem triggerRaisesTheInterruptTwoTicksLater : Obligations.TriggerRaisesTheInterruptTwoTicksLater := by
  intro s hc hr hr' idle request control go
  obtain ⟨t, h⟩ := step_isNext hc
  obtain ⟨cfg, -⟩ := step_cfg_inputs h
  have noReset : t.input.reset = false := by rw [step_input h, hr']
  obtain ⟨d, r, hd, -, e⟩ := step_ticks hr h
  have triggered : d = (s.mergeReg 0 s.w.data s.w.strb).startCompute := by
    cases hd with
    | performs _ _ effect =>
      obtain ⟨-, started⟩ | ⟨noGo, -⟩ := effect.of_control control
      · exact started
      · exact nomatch go.symm.trans noGo
    | rests _ noRequest => exact nomatch noRequest.symm.trans request
    | computes busy | holds busy | releases busy => exact nomatch idle.symm.trans busy
  subst triggered
  have compute : t.dw.state = .compute := by rw [e]; rfl
  obtain ⟨u, h', copied, irq, -⟩ :=
    computeStepCopiesTheBufferAndRaisesTheInterrupt t (by rw [cfg, hc]) noReset compute
  subst e
  refine ⟨_, u, h, h', by simp, rfl, fun _ => rfl, irq, fun k below => (copied k).trans (if_pos below)⟩

/-! ### Stepping along a list of inputs -/

theorem step_along {s : State} {i : Input} {rest : List Input} (hc : s.cfg.wf = true) (inputs : s.inputs = i :: rest) :
    ∃ t, step s = .next t ∧ s.input = i ∧ t.cfg = s.cfg ∧ t.inputs = rest := by
  obtain ⟨t, h⟩ := step_isNext hc
  obtain ⟨cfg, tail⟩ := step_cfg_inputs h
  exact ⟨t, h, by rw [State.input, inputs]; rfl, cfg, by rw [tail, inputs]; rfl⟩

theorem step_silent {s : State} (hc : s.cfg.wf = true) (inputs : s.inputs = []) :
    ∃ t, step s = .next t ∧ s.input = Input.zero ∧ t.cfg = s.cfg ∧ t.inputs = [] := by
  obtain ⟨t, h⟩ := step_isNext hc
  obtain ⟨cfg, tail⟩ := step_cfg_inputs h
  exact ⟨t, h, by rw [State.input, inputs]; rfl, cfg, by rw [tail, inputs]; rfl⟩

/-- A write presented to a bridge that is ready for it, and the tick after: captured with the storage as it was, then
performed, with the read side at rest. -/
theorem write_performed {s : State} {raw : Nat} {data : Word} {strb : Strobe} {rest : List Input}
    (hc : s.cfg.wf = true) (hw : WriteReady s) (hread : ReadReady s)
    (inputs : s.inputs = Input.presentWrite raw data strb :: Input.zero :: rest) :
    ∃ t u d, step s = .next t ∧ step t = .next u ∧ s.SameStorage t ∧
      WriteEffect s.cfg (xlate s.cfg raw) data strb t d ∧ u.dw = d.dw ∧ d.SameStorage u ∧
      u.aw.state = .awaitDeviceReady ∧ u.w.state = .awaitDeviceReady ∧ u.b.state = .respond ∧ ReadReady u ∧
      u.cfg = s.cfg ∧ u.inputs = rest := by
  obtain ⟨t, h, input, cfg, inputs'⟩ := step_along hc inputs
  obtain ⟨u, h', input', cfg', inputs''⟩ := step_along (by rw [cfg, hc]) inputs'
  have hr : s.input.reset = false := by rw [input]; rfl
  have hr' : t.input.reset = false := by rw [input']; rfl
  obtain ⟨captured, same⟩ := hw.captures hr h (by rw [input]; rfl) (by rw [input]; rfl)
  rw [input] at captured
  obtain ⟨d, effect, dw, same', aw, w, b⟩ := captured.performs hr' h'
  rw [cfg] at effect
  have hread' := (hread.rests hr h (by rw [input]; rfl)).rests hr' h' (by rw [input']; rfl)
  exact ⟨t, u, d, h, h', same, effect, dw, same', aw, w, b, hread', cfg'.trans cfg, inputs''⟩

/-- A read presented to a bridge that is ready for it, as the last input: what the operation makes of the state after the
capture is presented two ticks later. -/
theorem read_presented {s : State} {raw : Nat} (hc : s.cfg.wf = true) (hread : ReadReady s)
    (inputs : s.inputs = [(Input.presentRead raw).acceptingResponse]) :
    ∃ t u v, step s = .next t ∧ step t = .next u ∧ step u = .next v ∧ ∀ d result,
      exec (decodeRead s.cfg (xlate s.cfg raw)) t = .next d → d.dr = { state := .ack, ready := true, rdata := result } →
      v.r = { state := .validate, valid := true, data := result } := by
  obtain ⟨t, h, input, cfg, inputs'⟩ := step_along hc inputs
  have hct : t.cfg.wf = true := by rw [cfg, hc]
  obtain ⟨u, h', input', cfg', inputs''⟩ := step_silent hct inputs'
  obtain ⟨v, h'', input'', -, -⟩ := step_silent (by rw [cfg', hct]) inputs''
  have captured := hread.captures (by rw [input]; rfl) h (by rw [input]; rfl)
  rw [input] at captured
  refine ⟨t, u, v, h, h', h'', fun d result hd presented => ?_⟩
  exact captured.presents (by rw [input']; rfl) h' (by rw [cfg]; exact hd) presented (by rw [input'']; rfl) h''

/-! ### The two round trips -/

/-- Settles O55: the write is performed in the second tick, the read captured in the third sees the merged register. -/
theorem writtenRegisterReadsBack : Obligations.WrittenRegisterReadsBack := by
  intro s raw idx low v strb hc quiescent address inputs
  obtain ⟨-, hw, hread⟩ := ready_of_quiescent quiescent
  obtain ⟨s1, s2, d, h1, h2, same1, effect, dw, same2, -, -, -, hread', cfg, inputs'⟩ :=
    write_performed hc hw hread inputs
  obtain ⟨s3, s4, s5, h3, h4, h5, result⟩ := read_presented (by rw [cfg, hc]) hread' inputs'
  have hlow := low.isLt
  have reg : bpw * idx.val + low.toNat < 64 := by rw [bpw]; omega
  have register := regIndex_wordAddress idx low
  have kept := (step_keeps_regs_ibuf (by rw [State.input, inputs']; rfl) h3 (by rw [dw]; exact effect.busy)).1
  have written : s3.readReg idx = merge (s.readReg idx) v strb := by
    rw [address] at effect
    have merged := effect.readReg_addressed reg
    rw [register, State.readReg_congr same1.1] at merged
    rw [State.readReg_congr kept, State.readReg_congr same2.1, merged]
  have read := exec_decodeRead_reg s2.cfg reg s3
  rw [register, written, ← address, ← cfg] at read
  have presented := result _ _ read rfl
  refine ⟨s5, ?_, by rw [presented], by rw [presented], fun full => by rw [presented, full, merge_full]⟩
  rw [run_succ h1, run_succ h2, run_succ h3, run_succ h4, run_succ h5]
  rfl

/-- The trace's data and strobe put byte `v` into lane `i` and enable it. -/
theorem lane_shifted (v : Byte) {i : Nat} (hi : i < 4) :
    lane i (v.setWidth 32 <<< (8 * i)) = v ∧ laneEnabled (1#4 <<< i) i = true := by
  refine ⟨byte_ext fun j hj => ?_, ?_⟩
  · rw [getLsbD_lane]
    simp [hj, show 8 * i + j < 32 by omega]
  · simp [laneEnabled, hi]

/-- The byte at offset `k` of a buffer region: its word's byte index, and its lane. -/
theorem wordByteIndex_offset {offset : Nat} (ho : offset % 4 = 0) (k : Nat) :
    wordByteIndex (wordIndex offset (offset + k)) + k % 4 = k := by
  simp only [wordByteIndex, wordIndex, wordBase, bpw]
  omega

/-- The trace's first write stores the byte at its offset and completes. -/
theorem byte_written {c : Cfg} (hc : c.wf = true) {k : Nat} (below : k < c.rfileSize) {v : Byte} {s d : State}
    (effect : WriteEffect c (c.rfileOffset + k) (v.setWidth 32 <<< (8 * (k % bpw))) (1#4 <<< (k % bpw)) s d) :
    d.dw = { state := .ack, ready := true } ∧ d.ibuf.read k = v := by
  have ibuf : region c (c.rfileOffset + k) = .ibuf := (region_eq_ibuf hc).mpr (by omega)
  have place := wordByteIndex_offset (Cfg.wf_align hc).1 k
  obtain ⟨byte, enabled⟩ := lane_shifted v (Nat.mod_lt k (by decide : 0 < bpw))
  cases effect with
  | writesIbuf =>
    have stored := s.ibuf.read_writeWord_lane (wordByteIndex (wordIndex c.rfileOffset (c.rfileOffset + k)))
      (v.setWidth 32 <<< (8 * (k % bpw))) (1#4 <<< (k % bpw)) (Nat.mod_lt k (by decide : 0 < 4))
    rw [place] at stored
    exact ⟨rfl, (stored.trans (if_pos enabled)).trans byte⟩
  | startsCompute control | clearsIrq control => have := Cfg.wf_disjoint hc; omega
  | mergesReg reg => have := Cfg.wf_disjoint hc; omega
  | storesNothing outside => simp [ibuf] at outside

/-- A read at an offset of the OutputBuffer completes with a word that has the byte in its lane. -/
theorem byte_read {c : Cfg} (hc : c.wf = true) {k : Nat} (below : k < c.wfileSize) (s : State) :
    ∃ word, exec (decodeRead c (c.wfileOffset + k)) s = .next (s.completeRead word) ∧
      lane (k % bpw) word = s.obuf.read k := by
  have obuf : region c (c.wfileOffset + k) = .obuf := (region_eq_obuf hc).mpr (by omega)
  have place := wordByteIndex_offset (Cfg.wf_align hc).2.2.1 k
  refine ⟨s.obuf.readWord (wordByteIndex (wordIndex c.wfileOffset (c.wfileOffset + k))),
    by simp only [decodeRead, obuf, exec_rdObuf], ?_⟩
  rw [lane_readWord _ _ (Nat.mod_lt k (by decide : 0 < bpw)), place]

/-- The two ticks after a write is answered, the response accepted in the first: the bridge is ready again, and the
storage is as it was. -/
theorem write_settles {s : State} {rest : List Input} (hc : s.cfg.wf = true) (coherent : s.Coherent)
    (hw : WriteAnswered s) (hread : ReadReady s)
    (inputs : s.inputs = Input.zero.acceptingResponse :: Input.zero :: rest) :
    ∃ t u, step s = .next t ∧ step t = .next u ∧ WriteReady u ∧ ReadReady u ∧ s.SameStorage t ∧ t.SameStorage u ∧
      u.cfg = s.cfg ∧ u.inputs = rest := by
  obtain ⟨t, h, input, cfg, inputs'⟩ := step_along hc inputs
  obtain ⟨u, h', input', cfg', inputs''⟩ := step_along (by rw [cfg, hc]) inputs'
  have hr : s.input.reset = false := by rw [input]; rfl
  have hr' : t.input.reset = false := by rw [input']; rfl
  obtain ⟨released, same⟩ := hw.accepts hr h coherent (by rw [input]; rfl)
  obtain ⟨ready, same'⟩ := released.settles hr' h' (by rw [input']; rfl) (by rw [input']; rfl)
  have hread' := (hread.rests hr h (by rw [input]; rfl)).rests hr' h' (by rw [input']; rfl)
  exact ⟨t, u, h, h', ready, hread', same, same', cfg'.trans cfg, inputs''⟩

/-- Settles O56: the byte is written in the second tick, the trigger performed in the sixth, the byte copied in the
seventh and read in the eighth. -/
theorem writtenByteCopiesThroughToTheOutput : Obligations.WrittenByteCopiesThroughToTheOutput := by
  intro s rawIn rawCtrl rawOut k v go hc quiescent below addressIn control addressOut trigger inputs
  obtain ⟨coherent, hw, hread⟩ := ready_of_quiescent quiescent
  obtain ⟨s1, s2, d, h1, h2, -, effect, dw, ⟨-, ibuf2, -⟩, aw2, w2, b2, hread2, cfg2, inputs2⟩ :=
    write_performed hc hw hread inputs
  rw [addressIn] at effect
  obtain ⟨done, written⟩ := byte_written hc (by omega) effect
  have coherent2 := step_coherent (step_coherent coherent h1) h2
  obtain ⟨s3, s4, h3, h4, hw4, hread4, ⟨-, ibuf3, -⟩, ⟨-, ibuf4, -⟩, cfg4, inputs4⟩ :=
    write_settles (by rw [cfg2, hc]) coherent2 ⟨aw2, w2, dw.trans done, b2⟩ hread2 inputs2
  have sameCfg4 : s4.cfg = s.cfg := cfg4.trans cfg2
  obtain ⟨s5, s6, e, h5, h6, ⟨-, ibuf5, -⟩, effect', dw6, ⟨-, ibuf6, -⟩, -, -, -, hread6, cfg6, inputs6⟩ :=
    write_performed (by rw [sameCfg4, hc]) hw4 hread4 inputs4
  have sameCfg : s6.cfg = s.cfg := cfg6.trans sameCfg4
  have triggered : e = (s5.mergeReg 0 go 15#4).startCompute := by
    rw [sameCfg4] at effect'
    obtain ⟨-, started⟩ | ⟨noGo, -⟩ := effect'.of_control control
    · exact started
    · rw [merge_full, trigger] at noGo
      exact nomatch noGo
  obtain ⟨s7, s8, s9, h7, h8, h9, result⟩ := read_presented (by rw [sameCfg, hc]) hread6 inputs6
  obtain ⟨t, h7', copied, -⟩ := computeStepCopiesTheBufferAndRaisesTheInterrupt s6 (by rw [sameCfg, hc])
    (by rw [State.input, inputs6]; rfl) (by rw [dw6, triggered]; rfl)
  cases h7'.symm.trans h7
  have byte : s7.obuf.read k = v := by
    rw [copied k, sameCfg, if_pos below, ibuf6, triggered, State.startCompute_ibuf, State.mergeReg_ibuf, ibuf5, ibuf4,
      ibuf3, ibuf2, written]
  obtain ⟨word, read, inLane⟩ := byte_read hc (Nat.lt_of_lt_of_le below (Nat.min_le_right ..)) s7
  rw [← addressOut, ← sameCfg] at read
  have presented := result _ word (by rw [← read, sameCfg]) rfl
  refine ⟨s9, ?_, by rw [presented], by rw [presented, inLane, byte]⟩
  rw [run_succ h1, run_succ h2, run_succ h3, run_succ h4, run_succ h5, run_succ h6, run_succ h7, run_succ h8,
    run_succ h9]
  rfl

/-! ### Quiescence and reset -/

/-- Settles O58: with nothing presented every process waits, and the two observed readies stay observed. -/
theorem quiescentBridgeStaysAsItIs : Obligations.QuiescentBridgeStaysAsItIs := by
  intro s hc quiescent inputs
  obtain ⟨-, hw, hread⟩ := ready_of_quiescent quiescent
  obtain ⟨-, -, -, -, -, -, -, -, -, -, -, sAwr, sWr, -⟩ := quiescent
  have input : s.input = Input.zero := by rw [State.input, inputs]; rfl
  have tail : s.inputs.tail = s.inputs := by rw [inputs]; rfl
  have hd : deviceWriteTick s = .next s := by
    rw [deviceWriteTick_idle (by rw [hw.dw]), State.devWvalid, hw.awAux]; rfl
  have hr : deviceReadTick s = .next s := by rw [deviceReadTick_idle hread.drIdle, hread.arAux]; rfl
  have aw : nextAw s s.input = s.aw := by rw [input]; exact AddrChannel.tick_waits_for_valid _ _ _ hw.aw
  have w : nextW s s.input = s.w := by rw [input, nextW_awaitValid s _ hw.w]; rfl
  have ar : nextAr s s.input = s.ar := by rw [input]; exact AddrChannel.tick_waits_for_valid _ _ _ hread.ar
  have r : nextR s s.input = s.r := by rw [nextR_idle s _ hread.r, hread.drReady]; rfl
  have b : nextB s s.input = s.b := by
    have awv : sticky s.b.sAwv s.input.awvalid = s.b.sAwv := by rw [hw.sAwv, input]; rfl
    have awr : sticky s.b.sAwr s.aw.ready = s.b.sAwr := by rw [sAwr]; rfl
    have wv : sticky s.b.sWv s.input.wvalid = s.b.sWv := by rw [hw.sWv, input]; rfl
    have wr : sticky s.b.sWr s.w.ready = s.b.sWr := by rw [sWr]; rfl
    rw [nextB_collect s _ hw.collect, if_neg (by simp [RespChannel.allObserved, hw.sAwv]), awv, awr, wv, wr]
  rw [step_of_process hc (by rw [input]; rfl) hd hr, assemble, tail, aw, w, b, ar, r]

/-- Settles O59: the reset tick leaves both sides released, the first silent tick ready, the second quiescent. -/
theorem resetSettlesIntoQuiescence : Obligations.ResetSettlesIntoQuiescence := by
  intro s hc hr silent silent'
  have h := step_of_reset hc hr
  obtain ⟨u, h'⟩ := step_isNext (s := s.resetTick) hc
  have input : s.resetTick.input = s.inputAt 1 := step_inputAt h 0
  have input' : u.input = s.inputAt 2 := (step_inputAt h' 0).trans (step_inputAt h 1)
  obtain ⟨v, h''⟩ := step_isNext ((congrArg Cfg.wf (step_cfg_inputs h').1).trans hc)
  rw [← input] at silent
  rw [← input'] at silent'
  obtain ⟨hr', awvalid, wvalid, arvalid⟩ := silent
  have coherent : s.resetTick.Coherent := by
    simp [State.Coherent, AddrChannel.Coherent, DataChannel.Coherent]
  have released : WriteReleased s.resetTick := ⟨rfl, rfl, rfl, .inr rfl, rfl⟩
  obtain ⟨hw, regs, ibuf, obuf, irq⟩ := released.settles hr' h' awvalid wvalid
  have ar := step_ar hr' h'
  rw [nextAr, AddrChannel.tick_readyHigh _ _ _ _ _ rfl] at ar
  have dr := dr_waits_for_request hr' h' rfl rfl
  have r := r_waits_for_device hr' h' rfl rfl
  have hread : ReadReady u := ⟨by rw [ar], by rw [ar]; rfl, by rw [dr]; rfl, by rw [dr]; rfl, by rw [r]; rfl⟩
  obtain ⟨quiescent, regs', ibuf', obuf', irq'⟩ :=
    quiescent_of_ready (step_coherent coherent h') hw hread silent' h''
  exact ⟨_, u, v, h, h', h'', quiescent, irq'.trans irq, regs'.trans regs, ibuf'.trans ibuf, obuf'.trans obuf⟩

end Sys2Proof.Machine
